-- ==== Sys2Proof/Word.lean ====
section
/-! DEFINITION. The word types of the block (spec/00_scope.md R8): every width in one place. -/

namespace Sys2Proof

/-- `DW` = 12: a D-class register, a data-memory word of one lane (00_scope.md R8). -/
abbrev DWord := BitVec 12

/-- `AW` = 16: program and data addresses, `PC`, `_CNTR`, the I, M, L, B registers (R8). -/
abbrev Addr := BitVec 16

/-- `ACCW` = 32: an accumulator, H 8, M 12, L 12 bits (R8). -/
abbrev AccWord := BitVec 32

/-- `IW` = 32: an instruction word (R8). -/
abbrev IWord := BitVec 32

/-- `FW` = 12: a flag bundle (R8). -/
abbrev FlagBundle := BitVec 12

/-- An 8-bit group of the instruction stream (20_memory.md R87). -/
abbrev Byte := BitVec 8

/-- Number of a lane, 0..3 (00_scope.md R13). -/
abbrev LaneId := Fin 4

/-- `trunc_W(n) = n mod 2^W` of an integer (00_scope.md R12). -/
def trunc (w : Nat) (n : Int) : BitVec w := BitVec.ofInt w n

end Sys2Proof
end

