-- ==== Sys2Proof/Syntax.lean ====
section
/-! DEFINITION. The instructions of the block as data: one constructor per format, that is, per row of
spec/opcode_table.json (spec/30_encoding.md R146, R147), and the operand types its fields become. -/

namespace Sys2Proof

/-- D-class register number, `R0`..`R31` (30_encoding.md R110). In a complex position it names the
even register of the pair. -/
abbrev Reg := Fin 32

/-- `R0`..`R7`, the short register fields of bundles (R110). -/
abbrev Reg8 := Fin 8

/-- Accumulator number `ACC0`..`ACC7` (R111). -/
abbrev AccIx := Fin 8

/-- `ACC0`..`ACC3`, the accumulator of a 3-way bundle (R111). -/
abbrev Acc4 := Fin 4

/-- Index of an address-generator register, 0..7 (R111). -/
abbrev GIx := Fin 8

/-- The 2-bit index fields of bundles: `I0`..`I3` and `M0`..`M3`, or `I4`..`I7` and `M4`..`M7` in the
second load (R111). -/
abbrev Ix4 := Fin 4

/-- Condition codes of the `cond` field (30_encoding.md R112). -/
inductive Cond where
  | eq | ne | gt | le | lt | ge | av | notAv | ac | notAc | mv | notMv | always
  deriving DecidableEq, Repr

/-- Loop terminations of the `term` field (R113). -/
inductive Term where
  | ce | forever
  deriving DecidableEq, Repr

/-- Multiplier options of the `opt` field (R114, 42_mac.md R232). -/
inductive MacOpt where
  | ss | su | us | uu | rnd
  deriving DecidableEq, Repr

/-- The 1-bit option `opt1` of a 3-way bundle (R114). -/
inductive MacOpt1 where
  | ss | rnd
  deriving DecidableEq, Repr

/-- Accumulator views of the `view` field (R111). -/
inductive View where
  | h | m | l
  deriving DecidableEq, Repr

/-- Classes of address-generator registers, the `gcls` field (R111). -/
inductive GClass where
  | i | m | l | b
  deriving DecidableEq, Repr

/-- Control registers of the `ctl` field (10_state.md R38). -/
inductive Ctl where
  | cntr | mstat | sstat | astatR | astatI | astatC | dpid
  deriving DecidableEq, Repr

/-- One constructor per format. Fields stand in the order of the format's template; immediates are the
bits of the field. -/
inductive Instr where
  /-- `NOP`, opc 0x01 (46_system.md R362). -/
  | nop
  /-- `RESET`, opc 0x02 (R365). -/
  | reset
  /-- `PUSH STS`, opc 0x03 (R363). -/
  | pushSts
  /-- `POP STS`, opc 0x04 (R364). -/
  | popSts
  /-- `JUMP L`, opc 0x08 (45_control_flow.md R330). -/
  | jump (off : BitVec 16) (c : Cond)
  /-- `CALL L`, opc 0x09 (R331). -/
  | call (off : BitVec 16) (c : Cond)
  /-- `RTS`, opc 0x0A (R332). -/
  | rts (c : Cond)
  /-- `DO L UNTIL term`, opc 0x0B (R333). -/
  | doUntil (off : BitVec 16) (term : Term)
  /-- `ADD Rd, Rx, Ry`, opc 0x10 (40_alu.md R185). -/
  | addRRR (rd rx ry : Reg) (c : Cond)
  /-- `ADDC Rd, Rx, Ry`, opc 0x11 (40_alu.md R186). -/
  | addcRRR (rd rx ry : Reg) (c : Cond)
  /-- `SUB Rd, Rx, Ry`, opc 0x12 (40_alu.md R187). -/
  | subRRR (rd rx ry : Reg) (c : Cond)
  /-- `SUBB Rd, Rx, Ry`, opc 0x13 (40_alu.md R188). -/
  | subbRRR (rd rx ry : Reg) (c : Cond)
  /-- `AND Rd, Rx, Ry`, opc 0x14 (40_alu.md R189). -/
  | andRRR (rd rx ry : Reg) (c : Cond)
  /-- `OR Rd, Rx, Ry`, opc 0x15 (40_alu.md R190). -/
  | orRRR (rd rx ry : Reg) (c : Cond)
  /-- `XOR Rd, Rx, Ry`, opc 0x16 (40_alu.md R191). -/
  | xorRRR (rd rx ry : Reg) (c : Cond)
  /-- `NOT Rd, Rx`, opc 0x18 (40_alu.md R192). -/
  | notRR (rd rx : Reg) (c : Cond)
  /-- `ABS Rd, Rx`, opc 0x19 (40_alu.md R193). -/
  | absRR (rd rx : Reg) (c : Cond)
  /-- `NEG Rd, Rx`, opc 0x1A (40_alu.md R194). -/
  | negRR (rd rx : Reg) (c : Cond)
  /-- `CP Rd, Rx`, opc 0x1B (44_move_load_store.md R272). -/
  | cpRR (rd rx : Reg) (c : Cond)
  /-- `ASHIFT Rd, Rx, Ry`, opc 0x1C (43_shift_divide.md R253). -/
  | ashiftRRR (rd rx ry : Reg) (c : Cond)
  /-- `LSHIFT Rd, Rx, Ry`, opc 0x1D (43_shift_divide.md R254). -/
  | lshiftRRR (rd rx ry : Reg) (c : Cond)
  /-- `DIVS Rd, Rx, Ry`, opc 0x1E (43_shift_divide.md R258). -/
  | divsRRR (rd rx ry : Reg) (c : Cond)
  /-- `DIVQ Rd, Rx, Ry`, opc 0x1F (43_shift_divide.md R259). -/
  | divqRRR (rd rx ry : Reg) (c : Cond)
  /-- `ADD Rd, Rx, #s8`, opc 0x20 (40_alu.md R185). -/
  | addRRI (rd rx : Reg) (imm : BitVec 8) (c : Cond)
  /-- `ADDC Rd, Rx, #s8`, opc 0x21 (40_alu.md R186). -/
  | addcRRI (rd rx : Reg) (imm : BitVec 8) (c : Cond)
  /-- `SUB Rd, Rx, #s8`, opc 0x22 (40_alu.md R187). -/
  | subRRI (rd rx : Reg) (imm : BitVec 8) (c : Cond)
  /-- `SUBB Rd, Rx, #s8`, opc 0x23 (40_alu.md R188). -/
  | subbRRI (rd rx : Reg) (imm : BitVec 8) (c : Cond)
  /-- `AND Rd, Rx, #s8`, opc 0x24 (40_alu.md R189). -/
  | andRRI (rd rx : Reg) (imm : BitVec 8) (c : Cond)
  /-- `OR Rd, Rx, #s8`, opc 0x25 (40_alu.md R190). -/
  | orRRI (rd rx : Reg) (imm : BitVec 8) (c : Cond)
  /-- `XOR Rd, Rx, #s8`, opc 0x26 (40_alu.md R191). -/
  | xorRRI (rd rx : Reg) (imm : BitVec 8) (c : Cond)
  /-- `ASHIFT Rd, Rx, #s8`, opc 0x2C (43_shift_divide.md R253). -/
  | ashiftRRI (rd rx : Reg) (imm : BitVec 8) (c : Cond)
  /-- `LSHIFT Rd, Rx, #s8`, opc 0x2D (43_shift_divide.md R254). -/
  | lshiftRRI (rd rx : Reg) (imm : BitVec 8) (c : Cond)
  /-- `ADD.C Rd, Rx, Ry`, opc 0x30 (41_complex.md R213). -/
  | addC (rd rx ry : Reg) (c : Cond)
  /-- `SUB.C Rd, Rx, Ry`, opc 0x32 (41_complex.md R214). -/
  | subC (rd rx ry : Reg) (c : Cond)
  /-- `CONJ.C Rd, Rx`, opc 0x38 (41_complex.md R215). -/
  | conjC (rd rx : Reg) (c : Cond)
  /-- `POLAR.C Rd, Rx`, opc 0x39 (41_complex.md R216). -/
  | polarC (rd rx : Reg) (c : Cond)
  /-- `RECT.C Rd, Rx`, opc 0x3A (41_complex.md R217). -/
  | rectC (rd rx : Reg) (c : Cond)
  /-- `CP.C Rd, Rx`, opc 0x3B (44_move_load_store.md R273). -/
  | cpC (rd rx : Reg) (c : Cond)
  /-- `MPY ACCk, Rx, Ry (opt)`, opc 0x40 (42_mac.md R235). -/
  | mpy (opt : MacOpt) (acc : AccIx) (rx ry : Reg) (c : Cond)
  /-- `MAC ACCk, Rx, Ry (opt)`, opc 0x41 (42_mac.md R236). -/
  | mac (opt : MacOpt) (acc : AccIx) (rx ry : Reg) (c : Cond)
  /-- `MAS ACCk, Rx, Ry (opt)`, opc 0x42 (42_mac.md R237). -/
  | mas (opt : MacOpt) (acc : AccIx) (rx ry : Reg) (c : Cond)
  /-- `MPY.C ACCk, Rx, Ry[*] (opt)`, opc 0x44 (42_mac.md R238). -/
  | mpyC (conj : Bool) (opt : MacOpt) (acc : AccIx) (rx ry : Reg) (c : Cond)
  /-- `MAC.C ACCk, Rx, Ry[*] (opt)`, opc 0x45 (42_mac.md R239). -/
  | macC (conj : Bool) (opt : MacOpt) (acc : AccIx) (rx ry : Reg) (c : Cond)
  /-- `MAS.C ACCk, Rx, Ry[*] (opt)`, opc 0x46 (42_mac.md R240). -/
  | masC (conj : Bool) (opt : MacOpt) (acc : AccIx) (rx ry : Reg) (c : Cond)
  /-- `CP ACCk.v, Rx`, opc 0x48 (44_move_load_store.md R274). -/
  | cpVR (v : View) (acc : AccIx) (rx : Reg) (c : Cond)
  /-- `CP Rd, ACCk.v`, opc 0x49 (R275). -/
  | cpRV (rd : Reg) (v : View) (acc : AccIx) (c : Cond)
  /-- `CP ACCd, ACCs`, opc 0x4A (R276). -/
  | cpAA (accd accs : AccIx) (c : Cond)
  /-- `CP G, Rx`, opc 0x4C (R277). -/
  | cpGR (g : GClass) (k : GIx) (rx : Reg) (c : Cond)
  /-- `CP Rd, G`, opc 0x4D (R278). -/
  | cpRG (rd : Reg) (g : GClass) (k : GIx) (c : Cond)
  /-- `CP C, Rx`, opc 0x4E (R279). -/
  | cpCR (ctl : Ctl) (rx : Reg) (c : Cond)
  /-- `CP Rd, C`, opc 0x4F (R280). -/
  | cpRC (rd : Reg) (ctl : Ctl) (c : Cond)
  /-- `LD Rd, #12`, opc 0x50 (R283). -/
  | ldRI (rd : Reg) (imm : BitVec 12) (c : Cond)
  /-- `LD G, #16`, opc 0x51 (R284). -/
  | ldGI (g : GClass) (k : GIx) (imm : BitVec 16)
  /-- `LD C, #16`, opc 0x52 (R285). -/
  | ldCI (ctl : Ctl) (imm : BitVec 16)
  /-- `LD Rd, DM(addr16)`, opc 0x54 (44_move_load_store.md R290). -/
  | ldAbs (r : Reg) (a : BitVec 16)
  /-- `ST DM(addr16), Rs`, opc 0x55 (44_move_load_store.md R291). -/
  | stAbs (r : Reg) (a : BitVec 16)
  /-- `LD.C Rd, DM(addr16)`, opc 0x56 (44_move_load_store.md R292). -/
  | ldCAbs (r : Reg) (a : BitVec 16)
  /-- `ST.C DM(addr16), Rs`, opc 0x57 (44_move_load_store.md R293). -/
  | stCAbs (r : Reg) (a : BitVec 16)
  /-- `LD Rd, DM(Ik += Mj)`, opc 0x58 (44_move_load_store.md R290). -/
  | ldPostM (r : Reg) (i m : GIx) (c : Cond)
  /-- `ST DM(Ik += Mj), Rs`, opc 0x59 (44_move_load_store.md R291). -/
  | stPostM (r : Reg) (i m : GIx) (c : Cond)
  /-- `LD.C Rd, DM(Ik += Mj)`, opc 0x5A (44_move_load_store.md R292). -/
  | ldCPostM (r : Reg) (i m : GIx) (c : Cond)
  /-- `ST.C DM(Ik += Mj), Rs`, opc 0x5B (44_move_load_store.md R293). -/
  | stCPostM (r : Reg) (i m : GIx) (c : Cond)
  /-- `LD Rd, DM(Ik + Mj)`, opc 0x5C (44_move_load_store.md R290). -/
  | ldPreM (r : Reg) (i m : GIx) (c : Cond)
  /-- `ST DM(Ik + Mj), Rs`, opc 0x5D (44_move_load_store.md R291). -/
  | stPreM (r : Reg) (i m : GIx) (c : Cond)
  /-- `LD.C Rd, DM(Ik + Mj)`, opc 0x5E (44_move_load_store.md R292). -/
  | ldCPreM (r : Reg) (i m : GIx) (c : Cond)
  /-- `ST.C DM(Ik + Mj), Rs`, opc 0x5F (44_move_load_store.md R293). -/
  | stCPreM (r : Reg) (i m : GIx) (c : Cond)
  /-- `LD Rd, DM(Ik += imm8)`, opc 0x60 (44_move_load_store.md R290). -/
  | ldPostI (r : Reg) (i : GIx) (imm : BitVec 8) (c : Cond)
  /-- `ST DM(Ik += imm8), Rs`, opc 0x61 (44_move_load_store.md R291). -/
  | stPostI (r : Reg) (i : GIx) (imm : BitVec 8) (c : Cond)
  /-- `LD.C Rd, DM(Ik += imm8)`, opc 0x62 (44_move_load_store.md R292). -/
  | ldCPostI (r : Reg) (i : GIx) (imm : BitVec 8) (c : Cond)
  /-- `ST.C DM(Ik += imm8), Rs`, opc 0x63 (44_move_load_store.md R293). -/
  | stCPostI (r : Reg) (i : GIx) (imm : BitVec 8) (c : Cond)
  /-- `LD Rd, DM(Ik + imm8)`, opc 0x64 (44_move_load_store.md R290). -/
  | ldPreI (r : Reg) (i : GIx) (imm : BitVec 8) (c : Cond)
  /-- `ST DM(Ik + imm8), Rs`, opc 0x65 (44_move_load_store.md R291). -/
  | stPreI (r : Reg) (i : GIx) (imm : BitVec 8) (c : Cond)
  /-- `LD.C Rd, DM(Ik + imm8)`, opc 0x66 (44_move_load_store.md R292). -/
  | ldCPreI (r : Reg) (i : GIx) (imm : BitVec 8) (c : Cond)
  /-- `ST.C DM(Ik + imm8), Rs`, opc 0x67 (44_move_load_store.md R293). -/
  | stCPreI (r : Reg) (i : GIx) (imm : BitVec 8) (c : Cond)
  /-- `ADD Rd, Rx, Ry || LD Rl, DM(Ik += Mj)`, aluop 0 (47_multifunction.md R384). -/
  | addLd (rd rx ry : Reg) (lrd : Reg8) (li lm : Ix4) (c : Cond)
  /-- `ADDC Rd, Rx, Ry || LD Rl, DM(Ik += Mj)`, aluop 1 (47_multifunction.md R384). -/
  | addcLd (rd rx ry : Reg) (lrd : Reg8) (li lm : Ix4) (c : Cond)
  /-- `SUB Rd, Rx, Ry || LD Rl, DM(Ik += Mj)`, aluop 2 (47_multifunction.md R384). -/
  | subLd (rd rx ry : Reg) (lrd : Reg8) (li lm : Ix4) (c : Cond)
  /-- `SUBB Rd, Rx, Ry || LD Rl, DM(Ik += Mj)`, aluop 3 (47_multifunction.md R384). -/
  | subbLd (rd rx ry : Reg) (lrd : Reg8) (li lm : Ix4) (c : Cond)
  /-- `AND Rd, Rx, Ry || LD Rl, DM(Ik += Mj)`, aluop 4 (47_multifunction.md R384). -/
  | andLd (rd rx ry : Reg) (lrd : Reg8) (li lm : Ix4) (c : Cond)
  /-- `OR Rd, Rx, Ry || LD Rl, DM(Ik += Mj)`, aluop 5 (47_multifunction.md R384). -/
  | orLd (rd rx ry : Reg) (lrd : Reg8) (li lm : Ix4) (c : Cond)
  /-- `XOR Rd, Rx, Ry || LD Rl, DM(Ik += Mj)`, aluop 6 (47_multifunction.md R384). -/
  | xorLd (rd rx ry : Reg) (lrd : Reg8) (li lm : Ix4) (c : Cond)
  /-- `MPY ACCk, Rx, Ry (opt) || LD Rl, DM(Ik += Mj)`, macop 0 (R385). -/
  | mpyLd (opt : MacOpt) (acc : AccIx) (rx ry : Reg) (lrd : Reg8) (li lm : Ix4) (c : Cond)
  /-- `MAC ACCk, Rx, Ry (opt) || LD Rl, DM(Ik += Mj)`, macop 1 (R385). -/
  | macLd (opt : MacOpt) (acc : AccIx) (rx ry : Reg) (lrd : Reg8) (li lm : Ix4) (c : Cond)
  /-- `MAS ACCk, Rx, Ry (opt) || LD Rl, DM(Ik += Mj)`, macop 2 (R385). -/
  | masLd (opt : MacOpt) (acc : AccIx) (rx ry : Reg) (lrd : Reg8) (li lm : Ix4) (c : Cond)
  /-- `MPY ACCk, Rx, Ry (SS or RND) || LD Ra, .. || LD Rb, ..`, macop 0 (R386). -/
  | mpyLdLd (opt : MacOpt1) (acc : Acc4) (rx ry : Reg8) (l1rd : Reg8) (l1i l1m : Ix4) (l2rd : Reg8) (l2i l2m : Ix4) (c : Cond)
  /-- `MAC ACCk, Rx, Ry (SS or RND) || LD Ra, .. || LD Rb, ..`, macop 1 (R386). -/
  | macLdLd (opt : MacOpt1) (acc : Acc4) (rx ry : Reg8) (l1rd : Reg8) (l1i l1m : Ix4) (l2rd : Reg8) (l2i l2m : Ix4) (c : Cond)
  /-- `MAS ACCk, Rx, Ry (SS or RND) || LD Ra, .. || LD Rb, ..`, macop 2 (R386). -/
  | masLdLd (opt : MacOpt1) (acc : Acc4) (rx ry : Reg8) (l1rd : Reg8) (l1i l1m : Ix4) (l2rd : Reg8) (l2i l2m : Ix4) (c : Cond)
  /-- `ASHIFT Rd, Rx, Ry || ST DM(Ik += Mj), Rs`, shop 0 (R387). -/
  | ashiftSt (rd rx ry : Reg) (srs : Reg8) (si sm : Ix4) (c : Cond)
  /-- `LSHIFT Rd, Rx, Ry || ST DM(Ik += Mj), Rs`, shop 1 (R387). -/
  | lshiftSt (rd rx ry : Reg) (srs : Reg8) (si sm : Ix4) (c : Cond)
  deriving DecidableEq, Repr

end Sys2Proof
end

