-- ==== Sys2Proof/WellFormed.lean ====
section
/-! DEFINITION. Which instructions are well formed: a complex operand is named by its even register and a
complex accumulator by its even number (spec/10_state.md R22, R26; 30_encoding.md R163). Every other
restriction of a field is in the type of the field. -/

namespace Sys2Proof

/-- The register names a complex pair (10_state.md R22). -/
def evenReg (r : Reg) : Bool := r.val % 2 == 0

/-- The accumulator names a complex accumulator pair (10_state.md R26). -/
def evenAcc (k : AccIx) : Bool := k.val % 2 == 0

/-- The checks of 30_encoding.md R163, constructor by constructor. -/
def Instr.wf : Instr → Bool
  | .nop => true
  | .reset => true
  | .pushSts => true
  | .popSts => true
  | .jump _ _ => true
  | .call _ _ => true
  | .rts _ => true
  | .doUntil _ _ => true
  | .addRRR _ _ _ _ => true
  | .addcRRR _ _ _ _ => true
  | .subRRR _ _ _ _ => true
  | .subbRRR _ _ _ _ => true
  | .andRRR _ _ _ _ => true
  | .orRRR _ _ _ _ => true
  | .xorRRR _ _ _ _ => true
  | .notRR _ _ _ => true
  | .absRR _ _ _ => true
  | .negRR _ _ _ => true
  | .cpRR _ _ _ => true
  | .ashiftRRR _ _ _ _ => true
  | .lshiftRRR _ _ _ _ => true
  | .divsRRR _ _ _ _ => true
  | .divqRRR _ _ _ _ => true
  | .addRRI _ _ _ _ => true
  | .addcRRI _ _ _ _ => true
  | .subRRI _ _ _ _ => true
  | .subbRRI _ _ _ _ => true
  | .andRRI _ _ _ _ => true
  | .orRRI _ _ _ _ => true
  | .xorRRI _ _ _ _ => true
  | .ashiftRRI _ _ _ _ => true
  | .lshiftRRI _ _ _ _ => true
  | .addC rd rx ry _ => evenReg rd && evenReg rx && evenReg ry
  | .subC rd rx ry _ => evenReg rd && evenReg rx && evenReg ry
  | .conjC rd rx _ => evenReg rd && evenReg rx
  | .polarC rd rx _ => evenReg rd && evenReg rx
  | .rectC rd rx _ => evenReg rd && evenReg rx
  | .cpC rd rx _ => evenReg rd && evenReg rx
  | .mpy _ _ _ _ _ => true
  | .mac _ _ _ _ _ => true
  | .mas _ _ _ _ _ => true
  | .mpyC _ _ acc rx ry _ => evenAcc acc && evenReg rx && evenReg ry
  | .macC _ _ acc rx ry _ => evenAcc acc && evenReg rx && evenReg ry
  | .masC _ _ acc rx ry _ => evenAcc acc && evenReg rx && evenReg ry
  | .cpVR _ _ _ _ => true
  | .cpRV _ _ _ _ => true
  | .cpAA _ _ _ => true
  | .cpGR _ _ _ _ => true
  | .cpRG _ _ _ _ => true
  | .cpCR _ _ _ => true
  | .cpRC _ _ _ => true
  | .ldRI _ _ _ => true
  | .ldGI _ _ _ => true
  | .ldCI _ _ => true
  | .ldAbs _ _ => true
  | .stAbs _ _ => true
  | .ldCAbs r _ => evenReg r
  | .stCAbs r _ => evenReg r
  | .ldPostM _ _ _ _ => true
  | .stPostM _ _ _ _ => true
  | .ldCPostM r _ _ _ => evenReg r
  | .stCPostM r _ _ _ => evenReg r
  | .ldPreM _ _ _ _ => true
  | .stPreM _ _ _ _ => true
  | .ldCPreM r _ _ _ => evenReg r
  | .stCPreM r _ _ _ => evenReg r
  | .ldPostI _ _ _ _ => true
  | .stPostI _ _ _ _ => true
  | .ldCPostI r _ _ _ => evenReg r
  | .stCPostI r _ _ _ => evenReg r
  | .ldPreI _ _ _ _ => true
  | .stPreI _ _ _ _ => true
  | .ldCPreI r _ _ _ => evenReg r
  | .stCPreI r _ _ _ => evenReg r
  | .addLd _ _ _ _ _ _ _ => true
  | .addcLd _ _ _ _ _ _ _ => true
  | .subLd _ _ _ _ _ _ _ => true
  | .subbLd _ _ _ _ _ _ _ => true
  | .andLd _ _ _ _ _ _ _ => true
  | .orLd _ _ _ _ _ _ _ => true
  | .xorLd _ _ _ _ _ _ _ => true
  | .mpyLd _ _ _ _ _ _ _ _ => true
  | .macLd _ _ _ _ _ _ _ _ => true
  | .masLd _ _ _ _ _ _ _ _ => true
  | .mpyLdLd _ _ _ _ _ _ _ _ _ _ _ => true
  | .macLdLd _ _ _ _ _ _ _ _ _ _ _ => true
  | .masLdLd _ _ _ _ _ _ _ _ _ _ _ => true
  | .ashiftSt _ _ _ _ _ _ _ => true
  | .lshiftSt _ _ _ _ _ _ _ => true

end Sys2Proof
end

