-- ==== Sys2Proof/Decode.lean ====
section
/-! DEFINITION. The bit-exact instruction encoding (spec/30_encoding.md): field templates, the encoder of
one instruction, the total decoder of a word, the format descriptors of R101, byte order, and
`decodeTableWord`. -/

namespace Sys2Proof

/-! ## Field codes (30_encoding.md R110 to R115) -/

/-- `cond` codes (R112). -/
def Cond.code : Cond → Nat
  | .eq => 0 | .ne => 1 | .gt => 2 | .le => 3 | .lt => 4 | .ge => 5 | .av => 6 | .notAv => 7
  | .ac => 8 | .notAc => 9 | .mv => 12 | .notMv => 13 | .always => 15

/-- Inverse of `Cond.code`; 10, 11 and 14 are reserved (R112, R162). -/
def Cond.ofCode : Nat → Option Cond
  | 0 => some .eq | 1 => some .ne | 2 => some .gt | 3 => some .le | 4 => some .lt | 5 => some .ge
  | 6 => some .av | 7 => some .notAv | 8 => some .ac | 9 => some .notAc | 12 => some .mv
  | 13 => some .notMv | 15 => some .always | _ => none

/-- `term` codes (R113). -/
def Term.code : Term → Nat
  | .ce => 14 | .forever => 15

/-- Inverse of `Term.code`; 0..13 are reserved (R113). -/
def Term.ofCode : Nat → Option Term
  | 14 => some .ce | 15 => some .forever | _ => none

/-- `opt` codes (R114). -/
def MacOpt.code : MacOpt → Nat
  | .ss => 0 | .su => 1 | .us => 2 | .uu => 3 | .rnd => 4

/-- Inverse of `MacOpt.code`; 5..7 are reserved (R114). -/
def MacOpt.ofCode : Nat → Option MacOpt
  | 0 => some .ss | 1 => some .su | 2 => some .us | 3 => some .uu | 4 => some .rnd | _ => none

/-- `opt1` codes (R114). -/
def MacOpt1.code : MacOpt1 → Nat
  | .ss => 0 | .rnd => 1

/-- Every value of the one bit `opt1` is assigned (R114). -/
def MacOpt1.ofCode : Nat → MacOpt1
  | 0 => .ss | _ => .rnd

/-- `view` codes (R111). -/
def View.code : View → Nat
  | .h => 1 | .m => 2 | .l => 3

/-- Inverse of `View.code`; 0 is reserved (R111). -/
def View.ofCode : Nat → Option View
  | 1 => some .h | 2 => some .m | 3 => some .l | _ => none

/-- `gcls` codes (R111). -/
def GClass.code : GClass → Nat
  | .i => 0 | .m => 1 | .l => 2 | .b => 3

/-- Every value of the two bits `gcls` is assigned (R111). -/
def GClass.ofCode : Nat → GClass
  | 0 => .i | 1 => .m | 2 => .l | _ => .b

/-- `ctl` codes, the control-register numbers of 10_state.md R38. -/
def Ctl.code : Ctl → Nat
  | .cntr => 0 | .mstat => 1 | .sstat => 2 | .astatR => 3 | .astatI => 4 | .astatC => 5 | .dpid => 6

/-- Inverse of `Ctl.code`; 7..15 are reserved (R111). -/
def Ctl.ofCode : Nat → Option Ctl
  | 0 => some .cntr | 1 => some .mstat | 2 => some .sstat | 3 => some .astatR | 4 => some .astatI
  | 5 => some .astatC | 6 => some .dpid | _ => none

/-! ## Reading fields of a word -/

/-- The field of `n` bits whose lowest bit is `lo` (00_scope.md R11). -/
def fld (w : IWord) (lo n : Nat) : Nat := w.toNat / 2 ^ lo % 2 ^ n

theorem fld_lt (w : IWord) (lo n : Nat) : fld w lo n < 2 ^ n :=
  Nat.mod_lt _ (Nat.two_pow_pos n)

/-- A 5-bit register field (30_encoding.md R110). -/
def fReg (w : IWord) (lo : Nat) : Reg := ⟨fld w lo 5, fld_lt w lo 5⟩

/-- A 3-bit register, accumulator or index field (R110, R111). -/
def fFin8 (w : IWord) (lo : Nat) : Fin 8 := ⟨fld w lo 3, fld_lt w lo 3⟩

/-- A 2-bit index field of a bundle (R111). -/
def fFin4 (w : IWord) (lo : Nat) : Fin 4 := ⟨fld w lo 2, fld_lt w lo 2⟩

/-- An immediate or address field, its bits as they are (R115). -/
def fBits (w : IWord) (lo n : Nat) : BitVec n := BitVec.ofNat n (fld w lo n)

/-! ## The decoder -/

/-- Why a word is illegal (30_encoding.md R160 to R165). -/
inductive Illegal where
  /-- unassigned `opc` (R161) -/
  | unassignedOpcode
  /-- reserved `aluop` or `macop` of a bundle (R161) -/
  | reservedSubop
  /-- `cond` 10, 11 or 14 (R162) -/
  | reservedCond
  /-- `term` 0..13 (R162) -/
  | reservedTerm
  /-- `view` 0 (R162) -/
  | reservedView
  /-- `ctl` 7..15 (R162) -/
  | reservedCtl
  /-- `opt` 5..7 (R162) -/
  | reservedOpt
  /-- odd register or accumulator in a complex position (R163) -/
  | oddPair
  /-- a pad bit is 1 (R164) -/
  | nonzeroPad
  deriving DecidableEq, Repr

/-- The verdict of the decoder. -/
abbrev Decoded := Except Illegal Instr

/-- Pad bits must be zero (R164). -/
def withPad (w : IWord) (lo n : Nat) (k : Decoded) : Decoded :=
  if fld w lo n = 0 then k else .error .nonzeroPad

/-- The `cond` field, always in bits 3..0 (R112, R162). -/
def withCond (w : IWord) (k : Cond → Decoded) : Decoded :=
  match Cond.ofCode (fld w 0 4) with
  | some c => k c
  | none => .error .reservedCond

/-- The `term` field (R113, R162). -/
def withTerm (w : IWord) (k : Term → Decoded) : Decoded :=
  match Term.ofCode (fld w 0 4) with
  | some t => k t
  | none => .error .reservedTerm

/-- The `opt` field (R114, R162). -/
def withOpt (w : IWord) (lo : Nat) (k : MacOpt → Decoded) : Decoded :=
  match MacOpt.ofCode (fld w lo 3) with
  | some o => k o
  | none => .error .reservedOpt

/-- The `view` field (R111, R162). -/
def withView (w : IWord) (lo : Nat) (k : View → Decoded) : Decoded :=
  match View.ofCode (fld w lo 2) with
  | some v => k v
  | none => .error .reservedView

/-- The `ctl` field (R111, R162). -/
def withCtl (w : IWord) (lo : Nat) (k : Ctl → Decoded) : Decoded :=
  match Ctl.ofCode (fld w lo 4) with
  | some c => k c
  | none => .error .reservedCtl

/-- The even-register checks of the complex formats (R163), which `Instr.wf` states. -/
def withPairs (k : Decoded) : Decoded :=
  match k with
  | .ok i => if i.wf then .ok i else .error .oddPair
  | .error e => .error e

/-- `T_0` (R120). -/
def asT0 (w : IWord) (i : Instr) : Decoded := withPad w 0 24 (.ok i)

/-- `T_BR` (R121). -/
def asBr (w : IWord) (mk : BitVec 16 → Cond → Instr) : Decoded :=
  withPad w 20 4 <| withCond w fun c => .ok (mk (fBits w 4 16) c)

/-- `T_RET` (R122). -/
def asRet (w : IWord) (mk : Cond → Instr) : Decoded :=
  withPad w 4 20 <| withCond w fun c => .ok (mk c)

/-- `T_DO` (R123). -/
def asDo (w : IWord) (mk : BitVec 16 → Term → Instr) : Decoded :=
  withPad w 20 4 <| withTerm w fun t => .ok (mk (fBits w 4 16) t)

/-- `T_R3` (R124). -/
def asR3 (w : IWord) (mk : Reg → Reg → Reg → Cond → Instr) : Decoded :=
  withPad w 19 5 <| withCond w fun c => .ok (mk (fReg w 14) (fReg w 9) (fReg w 4) c)

/-- `T_R2` (R125). -/
def asR2 (w : IWord) (mk : Reg → Reg → Cond → Instr) : Decoded :=
  withPad w 14 10 <| withCond w fun c => .ok (mk (fReg w 9) (fReg w 4) c)

/-- `T_RI` (R126). -/
def asRI (w : IWord) (mk : Reg → Reg → BitVec 8 → Cond → Instr) : Decoded :=
  withPad w 22 2 <| withCond w fun c => .ok (mk (fReg w 17) (fReg w 12) (fBits w 4 8) c)

/-- `T_MAC` (R127). -/
def asMac (w : IWord) (mk : MacOpt → AccIx → Reg → Reg → Cond → Instr) : Decoded :=
  withPad w 20 4 <| withOpt w 17 fun o => withCond w fun c =>
    .ok (mk o (fFin8 w 14) (fReg w 9) (fReg w 4) c)

/-- `T_MACC` (R128). -/
def asMacC (w : IWord) (mk : Bool → MacOpt → AccIx → Reg → Reg → Cond → Instr) : Decoded :=
  withPad w 21 3 <| withOpt w 17 fun o => withCond w fun c =>
    .ok (mk (fld w 20 1 == 1) o (fFin8 w 14) (fReg w 9) (fReg w 4) c)

/-- `T_LSA` (R139). -/
def asLsa (w : IWord) (mk : Reg → BitVec 16 → Instr) : Decoded :=
  withPad w 21 3 <| .ok (mk (fReg w 16) (fBits w 0 16))

/-- `T_LSM` (R140). -/
def asLsm (w : IWord) (mk : Reg → GIx → GIx → Cond → Instr) : Decoded :=
  withPad w 15 9 <| withCond w fun c => .ok (mk (fReg w 10) (fFin8 w 7) (fFin8 w 4) c)

/-- `T_LSI` (R141). -/
def asLsi (w : IWord) (mk : Reg → GIx → BitVec 8 → Cond → Instr) : Decoded :=
  withPad w 20 4 <| withCond w fun c => .ok (mk (fReg w 15) (fFin8 w 12) (fBits w 4 8) c)

/-- `B_ALU_LD` (R142). -/
def asAluLd (w : IWord) (mk : Reg → Reg → Reg → Reg8 → Ix4 → Ix4 → Cond → Instr) : Decoded :=
  withCond w fun c =>
    .ok (mk (fReg w 21) (fReg w 16) (fReg w 11) (fFin8 w 8) (fFin4 w 6) (fFin4 w 4) c)

/-- `B_MAC_LD` (R143). -/
def asMacLd (w : IWord) (mk : MacOpt → AccIx → Reg → Reg → Reg8 → Ix4 → Ix4 → Cond → Instr) :
    Decoded :=
  withOpt w 24 fun o => withCond w fun c =>
    .ok (mk o (fFin8 w 21) (fReg w 16) (fReg w 11) (fFin8 w 8) (fFin4 w 6) (fFin4 w 4) c)

/-- `B_MAC_LD_LD` (R144). -/
def asMacLdLd (w : IWord)
    (mk : MacOpt1 → Acc4 → Reg8 → Reg8 → Reg8 → Ix4 → Ix4 → Reg8 → Ix4 → Ix4 → Cond → Instr) :
    Decoded :=
  withCond w fun c =>
    .ok (mk (MacOpt1.ofCode (fld w 26 1)) (fFin4 w 24) (fFin8 w 21) (fFin8 w 18) (fFin8 w 15)
      (fFin4 w 13) (fFin4 w 11) (fFin8 w 8) (fFin4 w 6) (fFin4 w 4) c)

/-- `B_SHIFT_ST` (R145). -/
def asShiftSt (w : IWord) (mk : Reg → Reg → Reg → Reg8 → Ix4 → Ix4 → Cond → Instr) : Decoded :=
  withPad w 26 2 <| asAluLd w mk

/-- The single-issue opcode map (R146); an `opc` not in it is unassigned (R161). -/
def decodeSingle (w : IWord) : Nat → Decoded
  | 0x01 => asT0 w .nop
  | 0x02 => asT0 w .reset
  | 0x03 => asT0 w .pushSts
  | 0x04 => asT0 w .popSts
  | 0x08 => asBr w .jump
  | 0x09 => asBr w .call
  | 0x0A => asRet w .rts
  | 0x0B => asDo w .doUntil
  | 0x10 => asR3 w .addRRR
  | 0x11 => asR3 w .addcRRR
  | 0x12 => asR3 w .subRRR
  | 0x13 => asR3 w .subbRRR
  | 0x14 => asR3 w .andRRR
  | 0x15 => asR3 w .orRRR
  | 0x16 => asR3 w .xorRRR
  | 0x18 => asR2 w .notRR
  | 0x19 => asR2 w .absRR
  | 0x1A => asR2 w .negRR
  | 0x1B => asR2 w .cpRR
  | 0x1C => asR3 w .ashiftRRR
  | 0x1D => asR3 w .lshiftRRR
  | 0x1E => asR3 w .divsRRR
  | 0x1F => asR3 w .divqRRR
  | 0x20 => asRI w .addRRI
  | 0x21 => asRI w .addcRRI
  | 0x22 => asRI w .subRRI
  | 0x23 => asRI w .subbRRI
  | 0x24 => asRI w .andRRI
  | 0x25 => asRI w .orRRI
  | 0x26 => asRI w .xorRRI
  | 0x2C => asRI w .ashiftRRI
  | 0x2D => asRI w .lshiftRRI
  | 0x30 => withPairs (asR3 w .addC)
  | 0x32 => withPairs (asR3 w .subC)
  | 0x38 => withPairs (asR2 w .conjC)
  | 0x39 => withPairs (asR2 w .polarC)
  | 0x3A => withPairs (asR2 w .rectC)
  | 0x3B => withPairs (asR2 w .cpC)
  | 0x40 => asMac w .mpy
  | 0x41 => asMac w .mac
  | 0x42 => asMac w .mas
  | 0x44 => withPairs (asMacC w .mpyC)
  | 0x45 => withPairs (asMacC w .macC)
  | 0x46 => withPairs (asMacC w .masC)
  | 0x48 => withPad w 14 10 <| withView w 12 fun v => withCond w fun c =>
      .ok (.cpVR v (fFin8 w 9) (fReg w 4) c)
  | 0x49 => withPad w 14 10 <| withView w 7 fun v => withCond w fun c =>
      .ok (.cpRV (fReg w 9) v (fFin8 w 4) c)
  | 0x4A => withPad w 10 14 <| withCond w fun c => .ok (.cpAA (fFin8 w 7) (fFin8 w 4) c)
  | 0x4C => withPad w 14 10 <| withCond w fun c =>
      .ok (.cpGR (GClass.ofCode (fld w 12 2)) (fFin8 w 9) (fReg w 4) c)
  | 0x4D => withPad w 14 10 <| withCond w fun c =>
      .ok (.cpRG (fReg w 9) (GClass.ofCode (fld w 7 2)) (fFin8 w 4) c)
  | 0x4E => withPad w 13 11 <| withCtl w 9 fun ctl => withCond w fun c => .ok (.cpCR ctl (fReg w 4) c)
  | 0x4F => withPad w 13 11 <| withCtl w 4 fun ctl => withCond w fun c => .ok (.cpRC (fReg w 8) ctl c)
  | 0x50 => withPad w 21 3 <| withCond w fun c => .ok (.ldRI (fReg w 16) (fBits w 4 12) c)
  | 0x51 => withPad w 21 3 <| .ok (.ldGI (GClass.ofCode (fld w 19 2)) (fFin8 w 16) (fBits w 0 16))
  | 0x52 => withPad w 20 4 <| withCtl w 16 fun ctl => .ok (.ldCI ctl (fBits w 0 16))
  | 0x54 => asLsa w .ldAbs
  | 0x55 => asLsa w .stAbs
  | 0x56 => withPairs (asLsa w .ldCAbs)
  | 0x57 => withPairs (asLsa w .stCAbs)
  | 0x58 => asLsm w .ldPostM
  | 0x59 => asLsm w .stPostM
  | 0x5A => withPairs (asLsm w .ldCPostM)
  | 0x5B => withPairs (asLsm w .stCPostM)
  | 0x5C => asLsm w .ldPreM
  | 0x5D => asLsm w .stPreM
  | 0x5E => withPairs (asLsm w .ldCPreM)
  | 0x5F => withPairs (asLsm w .stCPreM)
  | 0x60 => asLsi w .ldPostI
  | 0x61 => asLsi w .stPostI
  | 0x62 => withPairs (asLsi w .ldCPostI)
  | 0x63 => withPairs (asLsi w .stCPostI)
  | 0x64 => asLsi w .ldPreI
  | 0x65 => asLsi w .stPreI
  | 0x66 => withPairs (asLsi w .ldCPreI)
  | 0x67 => withPairs (asLsi w .stCPreI)
  | _ => .error .unassignedOpcode

/-- The bundle map (R147): `bshape` selects the template, the sub-operation code the row; `aluop` 7
and `macop` 3 are reserved (R161). -/
def decodeBundle (w : IWord) : Nat → Decoded
  | 0 =>
    match fld w 26 3 with
    | 0 => asAluLd w .addLd
    | 1 => asAluLd w .addcLd
    | 2 => asAluLd w .subLd
    | 3 => asAluLd w .subbLd
    | 4 => asAluLd w .andLd
    | 5 => asAluLd w .orLd
    | 6 => asAluLd w .xorLd
    | _ => .error .reservedSubop
  | 1 =>
    match fld w 27 2 with
    | 0 => asMacLd w .mpyLd
    | 1 => asMacLd w .macLd
    | 2 => asMacLd w .masLd
    | _ => .error .reservedSubop
  | 2 =>
    match fld w 27 2 with
    | 0 => asMacLdLd w .mpyLdLd
    | 1 => asMacLdLd w .macLdLd
    | 2 => asMacLdLd w .masLdLd
    | _ => .error .reservedSubop
  | _ =>
    match fld w 28 1 with
    | 0 => asShiftSt w .ashiftSt
    | _ => asShiftSt w .lshiftSt

/-- `decode(w)`, total on 32-bit words (R107, R108). -/
def decode (w : IWord) : Decoded :=
  if fld w 31 1 = 0 then decodeSingle w (fld w 24 7) else decodeBundle w (fld w 29 2)

/-! ## The encoder of one instruction -/

/-- A field to emit: its width and its value. -/
abbrev Field := Nat × Nat

/-- The rolling bit buffer: fields in order, most significant bit first (R103). -/
def packFields (fs : List Field) : Nat := fs.foldl (fun acc f => acc * 2 ^ f.1 + f.2 % 2 ^ f.1) 0

/-- The bits emitted by a list of fields. -/
def totalWidth (fs : List Field) : Nat := (fs.map (·.1)).sum

/-- Fields of `T_R3` (R124). -/
def emitR3 (opc : Nat) (rd rx ry : Reg) (c : Cond) : List Field :=
  [(1, 0), (7, opc), (5, 0), (5, rd), (5, rx), (5, ry), (4, c.code)]

/-- Fields of `T_R2` (R125). -/
def emitR2 (opc : Nat) (rd rx : Reg) (c : Cond) : List Field :=
  [(1, 0), (7, opc), (10, 0), (5, rd), (5, rx), (4, c.code)]

/-- Fields of `T_RI` (R126). -/
def emitRI (opc : Nat) (rd rx : Reg) (imm : BitVec 8) (c : Cond) : List Field :=
  [(1, 0), (7, opc), (2, 0), (5, rd), (5, rx), (8, imm.toNat), (4, c.code)]

/-- Fields of `T_0` (R120). -/
def emitT0 (opc : Nat) : List Field := [(1, 0), (7, opc), (24, 0)]

/-- Fields of `T_BR` (R121). -/
def emitBr (opc : Nat) (off : BitVec 16) (c : Cond) : List Field :=
  [(1, 0), (7, opc), (4, 0), (16, off.toNat), (4, c.code)]

/-- Fields of `T_MAC` (R127). -/
def emitMac (opc : Nat) (o : MacOpt) (acc : AccIx) (rx ry : Reg) (c : Cond) : List Field :=
  [(1, 0), (7, opc), (4, 0), (3, o.code), (3, acc), (5, rx), (5, ry), (4, c.code)]

/-- Fields of `T_MACC` (R128). -/
def emitMacC (opc : Nat) (conj : Bool) (o : MacOpt) (acc : AccIx) (rx ry : Reg) (c : Cond) :
    List Field :=
  [(1, 0), (7, opc), (3, 0), (1, conj.toNat), (3, o.code), (3, acc), (5, rx), (5, ry), (4, c.code)]

/-- Fields of `T_LSA` (R139). -/
def emitLsa (opc : Nat) (r : Reg) (a : BitVec 16) : List Field :=
  [(1, 0), (7, opc), (3, 0), (5, r), (16, a.toNat)]

/-- Fields of `T_LSM` (R140). -/
def emitLsm (opc : Nat) (r : Reg) (i m : GIx) (c : Cond) : List Field :=
  [(1, 0), (7, opc), (9, 0), (5, r), (3, i), (3, m), (4, c.code)]

/-- Fields of `T_LSI` (R141). -/
def emitLsi (opc : Nat) (r : Reg) (i : GIx) (imm : BitVec 8) (c : Cond) : List Field :=
  [(1, 0), (7, opc), (4, 0), (5, r), (3, i), (8, imm.toNat), (4, c.code)]

/-- Fields of `B_ALU_LD` (R142). -/
def emitAluLd (aluop : Nat) (rd rx ry : Reg) (lrd : Reg8) (li lm : Ix4) (c : Cond) : List Field :=
  [(1, 1), (2, 0), (3, aluop), (5, rd), (5, rx), (5, ry), (3, lrd), (2, li), (2, lm), (4, c.code)]

/-- Fields of `B_MAC_LD` (R143). -/
def emitMacLd (macop : Nat) (o : MacOpt) (acc : AccIx) (rx ry : Reg) (lrd : Reg8) (li lm : Ix4)
    (c : Cond) : List Field :=
  [(1, 1), (2, 1), (2, macop), (3, o.code), (3, acc), (5, rx), (5, ry), (3, lrd), (2, li), (2, lm),
    (4, c.code)]

/-- Fields of `B_MAC_LD_LD` (R144). -/
def emitMacLdLd (macop : Nat) (o : MacOpt1) (acc : Acc4) (rx ry : Reg8) (l1rd : Reg8)
    (l1i l1m : Ix4) (l2rd : Reg8) (l2i l2m : Ix4) (c : Cond) : List Field :=
  [(1, 1), (2, 2), (2, macop), (1, o.code), (2, acc), (3, rx), (3, ry), (3, l1rd), (2, l1i),
    (2, l1m), (3, l2rd), (2, l2i), (2, l2m), (4, c.code)]

/-- Fields of `B_SHIFT_ST` (R145). -/
def emitShiftSt (shop : Nat) (rd rx ry : Reg) (srs : Reg8) (si sm : Ix4) (c : Cond) : List Field :=
  [(1, 1), (2, 3), (1, shop), (2, 0), (5, rd), (5, rx), (5, ry), (3, srs), (2, si), (2, sm),
    (4, c.code)]

/-- The fields of an instruction's word, first bit first (R103, R120 to R145). -/
def fieldsOf : Instr → List Field
  | .nop => emitT0 0x01
  | .reset => emitT0 0x02
  | .pushSts => emitT0 0x03
  | .popSts => emitT0 0x04
  | .jump off c => emitBr 0x08 off c
  | .call off c => emitBr 0x09 off c
  | .rts c => [(1, 0), (7, 0x0A), (20, 0), (4, c.code)]
  | .doUntil off term => [(1, 0), (7, 0x0B), (4, 0), (16, off.toNat), (4, term.code)]
  | .addRRR rd rx ry c => emitR3 0x10 rd rx ry c
  | .addcRRR rd rx ry c => emitR3 0x11 rd rx ry c
  | .subRRR rd rx ry c => emitR3 0x12 rd rx ry c
  | .subbRRR rd rx ry c => emitR3 0x13 rd rx ry c
  | .andRRR rd rx ry c => emitR3 0x14 rd rx ry c
  | .orRRR rd rx ry c => emitR3 0x15 rd rx ry c
  | .xorRRR rd rx ry c => emitR3 0x16 rd rx ry c
  | .notRR rd rx c => emitR2 0x18 rd rx c
  | .absRR rd rx c => emitR2 0x19 rd rx c
  | .negRR rd rx c => emitR2 0x1A rd rx c
  | .cpRR rd rx c => emitR2 0x1B rd rx c
  | .ashiftRRR rd rx ry c => emitR3 0x1C rd rx ry c
  | .lshiftRRR rd rx ry c => emitR3 0x1D rd rx ry c
  | .divsRRR rd rx ry c => emitR3 0x1E rd rx ry c
  | .divqRRR rd rx ry c => emitR3 0x1F rd rx ry c
  | .addRRI rd rx imm c => emitRI 0x20 rd rx imm c
  | .addcRRI rd rx imm c => emitRI 0x21 rd rx imm c
  | .subRRI rd rx imm c => emitRI 0x22 rd rx imm c
  | .subbRRI rd rx imm c => emitRI 0x23 rd rx imm c
  | .andRRI rd rx imm c => emitRI 0x24 rd rx imm c
  | .orRRI rd rx imm c => emitRI 0x25 rd rx imm c
  | .xorRRI rd rx imm c => emitRI 0x26 rd rx imm c
  | .ashiftRRI rd rx imm c => emitRI 0x2C rd rx imm c
  | .lshiftRRI rd rx imm c => emitRI 0x2D rd rx imm c
  | .addC rd rx ry c => emitR3 0x30 rd rx ry c
  | .subC rd rx ry c => emitR3 0x32 rd rx ry c
  | .conjC rd rx c => emitR2 0x38 rd rx c
  | .polarC rd rx c => emitR2 0x39 rd rx c
  | .rectC rd rx c => emitR2 0x3A rd rx c
  | .cpC rd rx c => emitR2 0x3B rd rx c
  | .mpy opt acc rx ry c => emitMac 0x40 opt acc rx ry c
  | .mac opt acc rx ry c => emitMac 0x41 opt acc rx ry c
  | .mas opt acc rx ry c => emitMac 0x42 opt acc rx ry c
  | .mpyC conj opt acc rx ry c => emitMacC 0x44 conj opt acc rx ry c
  | .macC conj opt acc rx ry c => emitMacC 0x45 conj opt acc rx ry c
  | .masC conj opt acc rx ry c => emitMacC 0x46 conj opt acc rx ry c
  | .cpVR v acc rx c => [(1, 0), (7, 0x48), (10, 0), (2, v.code), (3, acc), (5, rx), (4, c.code)]
  | .cpRV rd v acc c => [(1, 0), (7, 0x49), (10, 0), (5, rd), (2, v.code), (3, acc), (4, c.code)]
  | .cpAA accd accs c => [(1, 0), (7, 0x4A), (14, 0), (3, accd), (3, accs), (4, c.code)]
  | .cpGR g k rx c => [(1, 0), (7, 0x4C), (10, 0), (2, g.code), (3, k), (5, rx), (4, c.code)]
  | .cpRG rd g k c => [(1, 0), (7, 0x4D), (10, 0), (5, rd), (2, g.code), (3, k), (4, c.code)]
  | .cpCR ctl rx c => [(1, 0), (7, 0x4E), (11, 0), (4, ctl.code), (5, rx), (4, c.code)]
  | .cpRC rd ctl c => [(1, 0), (7, 0x4F), (11, 0), (5, rd), (4, ctl.code), (4, c.code)]
  | .ldRI rd imm c => [(1, 0), (7, 0x50), (3, 0), (5, rd), (12, imm.toNat), (4, c.code)]
  | .ldGI g k imm => [(1, 0), (7, 0x51), (3, 0), (2, g.code), (3, k), (16, imm.toNat)]
  | .ldCI ctl imm => [(1, 0), (7, 0x52), (4, 0), (4, ctl.code), (16, imm.toNat)]
  | .ldAbs r a => emitLsa 0x54 r a
  | .stAbs r a => emitLsa 0x55 r a
  | .ldCAbs r a => emitLsa 0x56 r a
  | .stCAbs r a => emitLsa 0x57 r a
  | .ldPostM r i m c => emitLsm 0x58 r i m c
  | .stPostM r i m c => emitLsm 0x59 r i m c
  | .ldCPostM r i m c => emitLsm 0x5A r i m c
  | .stCPostM r i m c => emitLsm 0x5B r i m c
  | .ldPreM r i m c => emitLsm 0x5C r i m c
  | .stPreM r i m c => emitLsm 0x5D r i m c
  | .ldCPreM r i m c => emitLsm 0x5E r i m c
  | .stCPreM r i m c => emitLsm 0x5F r i m c
  | .ldPostI r i imm c => emitLsi 0x60 r i imm c
  | .stPostI r i imm c => emitLsi 0x61 r i imm c
  | .ldCPostI r i imm c => emitLsi 0x62 r i imm c
  | .stCPostI r i imm c => emitLsi 0x63 r i imm c
  | .ldPreI r i imm c => emitLsi 0x64 r i imm c
  | .stPreI r i imm c => emitLsi 0x65 r i imm c
  | .ldCPreI r i imm c => emitLsi 0x66 r i imm c
  | .stCPreI r i imm c => emitLsi 0x67 r i imm c
  | .addLd rd rx ry lrd li lm c => emitAluLd 0 rd rx ry lrd li lm c
  | .addcLd rd rx ry lrd li lm c => emitAluLd 1 rd rx ry lrd li lm c
  | .subLd rd rx ry lrd li lm c => emitAluLd 2 rd rx ry lrd li lm c
  | .subbLd rd rx ry lrd li lm c => emitAluLd 3 rd rx ry lrd li lm c
  | .andLd rd rx ry lrd li lm c => emitAluLd 4 rd rx ry lrd li lm c
  | .orLd rd rx ry lrd li lm c => emitAluLd 5 rd rx ry lrd li lm c
  | .xorLd rd rx ry lrd li lm c => emitAluLd 6 rd rx ry lrd li lm c
  | .mpyLd opt acc rx ry lrd li lm c => emitMacLd 0 opt acc rx ry lrd li lm c
  | .macLd opt acc rx ry lrd li lm c => emitMacLd 1 opt acc rx ry lrd li lm c
  | .masLd opt acc rx ry lrd li lm c => emitMacLd 2 opt acc rx ry lrd li lm c
  | .mpyLdLd opt acc rx ry l1rd l1i l1m l2rd l2i l2m c => emitMacLdLd 0 opt acc rx ry l1rd l1i l1m l2rd l2i l2m c
  | .macLdLd opt acc rx ry l1rd l1i l1m l2rd l2i l2m c => emitMacLdLd 1 opt acc rx ry l1rd l1i l1m l2rd l2i l2m c
  | .masLdLd opt acc rx ry l1rd l1i l1m l2rd l2i l2m c => emitMacLdLd 2 opt acc rx ry l1rd l1i l1m l2rd l2i l2m c
  | .ashiftSt rd rx ry srs si sm c => emitShiftSt 0 rd rx ry srs si sm c
  | .lshiftSt rd rx ry srs si sm c => emitShiftSt 1 rd rx ry srs si sm c

/-- The 32-bit word of an instruction (R107). -/
def encode (i : Instr) : IWord := BitVec.ofNat 32 (packFields (fieldsOf i))

/-! ## Byte order and tables -/

/-- A word as four bytes of the instruction stream, most significant first (20_memory.md R87). -/
def bytesOfWord (w : IWord) : List Byte :=
  [fBits w 24 8, fBits w 16 8, fBits w 8 8, fBits w 0 8]

/-- The word four stream bytes make (20_memory.md R87). -/
def wordOfBytes (b0 b1 b2 b3 : Byte) : IWord :=
  BitVec.ofNat 32 (((b0.toNat * 256 + b1.toNat) * 256 + b2.toNat) * 256 + b3.toNat)

/-- Decoding at the front of a byte stream: `none` where fewer than four bytes are left; a decoder
always consumes one word (30_encoding.md R100). -/
def decodeBytes : List Byte → Option (Decoded × List Byte)
  | b0 :: b1 :: b2 :: b3 :: rest => some (decode (wordOfBytes b0 b1 b2 b3), rest)
  | _ => none

/-- The instruction the decoder reads from a table word of `nbits` bits: the word's four bytes are
laid out as the instruction stream has them (20_memory.md R87) and given to `decodeBytes`. -/
def decodeTableWord (nbits w : Nat) : Option Instr :=
  match decodeBytes (bytesOfWord (BitVec.ofNat 32 (w % 2 ^ nbits))) with
  | some (.ok i, _) => some i
  | _ => none

/-- A format descriptor (30_encoding.md R101, R104): the `format_id`, the name (the listing's format
tag), and `fixed_bits` as `match` and `mask`; `total_bit_width` is 32 for every format. -/
structure Format where
  id : Nat
  name : String
  mnemonic : String
  pattern : IWord
  mask : IWord
  deriving DecidableEq, Repr

/-- A word belongs to a format iff `w & mask == match` (R101). -/
def Format.holds (f : Format) (w : IWord) : Bool := w &&& f.mask == f.pattern

/-- The format an instruction is encoded in (R104, R146, R147; spec/opcode_table.json). -/
def formatOf : Instr → Format
  | .nop => ⟨0x01, "NOP", "NOP", 0x01000000, 0xFFFFFFFF⟩
  | .reset => ⟨0x02, "RESET", "RESET", 0x02000000, 0xFFFFFFFF⟩
  | .pushSts => ⟨0x03, "PUSH_STS", "PUSH", 0x03000000, 0xFFFFFFFF⟩
  | .popSts => ⟨0x04, "POP_STS", "POP", 0x04000000, 0xFFFFFFFF⟩
  | .jump _ _ => ⟨0x08, "JUMP_L", "JUMP", 0x08000000, 0xFFF00000⟩
  | .call _ _ => ⟨0x09, "CALL_L", "CALL", 0x09000000, 0xFFF00000⟩
  | .rts _ => ⟨0x0A, "RTS", "RTS", 0x0A000000, 0xFFFFFFF0⟩
  | .doUntil _ _ => ⟨0x0B, "DO_UNTIL", "DO", 0x0B000000, 0xFFF00000⟩
  | .addRRR _ _ _ _ => ⟨0x10, "ADD_RRR", "ADD", 0x10000000, 0xFFF80000⟩
  | .addcRRR _ _ _ _ => ⟨0x11, "ADDC_RRR", "ADDC", 0x11000000, 0xFFF80000⟩
  | .subRRR _ _ _ _ => ⟨0x12, "SUB_RRR", "SUB", 0x12000000, 0xFFF80000⟩
  | .subbRRR _ _ _ _ => ⟨0x13, "SUBB_RRR", "SUBB", 0x13000000, 0xFFF80000⟩
  | .andRRR _ _ _ _ => ⟨0x14, "AND_RRR", "AND", 0x14000000, 0xFFF80000⟩
  | .orRRR _ _ _ _ => ⟨0x15, "OR_RRR", "OR", 0x15000000, 0xFFF80000⟩
  | .xorRRR _ _ _ _ => ⟨0x16, "XOR_RRR", "XOR", 0x16000000, 0xFFF80000⟩
  | .notRR _ _ _ => ⟨0x18, "NOT_RR", "NOT", 0x18000000, 0xFFFFC000⟩
  | .absRR _ _ _ => ⟨0x19, "ABS_RR", "ABS", 0x19000000, 0xFFFFC000⟩
  | .negRR _ _ _ => ⟨0x1A, "NEG_RR", "NEG", 0x1A000000, 0xFFFFC000⟩
  | .cpRR _ _ _ => ⟨0x1B, "CP_RR", "CP", 0x1B000000, 0xFFFFC000⟩
  | .ashiftRRR _ _ _ _ => ⟨0x1C, "ASHIFT_RRR", "ASHIFT", 0x1C000000, 0xFFF80000⟩
  | .lshiftRRR _ _ _ _ => ⟨0x1D, "LSHIFT_RRR", "LSHIFT", 0x1D000000, 0xFFF80000⟩
  | .divsRRR _ _ _ _ => ⟨0x1E, "DIVS_RRR", "DIVS", 0x1E000000, 0xFFF80000⟩
  | .divqRRR _ _ _ _ => ⟨0x1F, "DIVQ_RRR", "DIVQ", 0x1F000000, 0xFFF80000⟩
  | .addRRI _ _ _ _ => ⟨0x20, "ADD_RRI", "ADD", 0x20000000, 0xFFC00000⟩
  | .addcRRI _ _ _ _ => ⟨0x21, "ADDC_RRI", "ADDC", 0x21000000, 0xFFC00000⟩
  | .subRRI _ _ _ _ => ⟨0x22, "SUB_RRI", "SUB", 0x22000000, 0xFFC00000⟩
  | .subbRRI _ _ _ _ => ⟨0x23, "SUBB_RRI", "SUBB", 0x23000000, 0xFFC00000⟩
  | .andRRI _ _ _ _ => ⟨0x24, "AND_RRI", "AND", 0x24000000, 0xFFC00000⟩
  | .orRRI _ _ _ _ => ⟨0x25, "OR_RRI", "OR", 0x25000000, 0xFFC00000⟩
  | .xorRRI _ _ _ _ => ⟨0x26, "XOR_RRI", "XOR", 0x26000000, 0xFFC00000⟩
  | .ashiftRRI _ _ _ _ => ⟨0x2C, "ASHIFT_RRI", "ASHIFT", 0x2C000000, 0xFFC00000⟩
  | .lshiftRRI _ _ _ _ => ⟨0x2D, "LSHIFT_RRI", "LSHIFT", 0x2D000000, 0xFFC00000⟩
  | .addC _ _ _ _ => ⟨0x30, "ADD.C_RRR", "ADD.C", 0x30000000, 0xFFF80000⟩
  | .subC _ _ _ _ => ⟨0x32, "SUB.C_RRR", "SUB.C", 0x32000000, 0xFFF80000⟩
  | .conjC _ _ _ => ⟨0x38, "CONJ.C_RR", "CONJ.C", 0x38000000, 0xFFFFC000⟩
  | .polarC _ _ _ => ⟨0x39, "POLAR.C_RR", "POLAR.C", 0x39000000, 0xFFFFC000⟩
  | .rectC _ _ _ => ⟨0x3A, "RECT.C_RR", "RECT.C", 0x3A000000, 0xFFFFC000⟩
  | .cpC _ _ _ => ⟨0x3B, "CP.C_RR", "CP.C", 0x3B000000, 0xFFFFC000⟩
  | .mpy _ _ _ _ _ => ⟨0x40, "MPY_ARR", "MPY", 0x40000000, 0xFFF00000⟩
  | .mac _ _ _ _ _ => ⟨0x41, "MAC_ARR", "MAC", 0x41000000, 0xFFF00000⟩
  | .mas _ _ _ _ _ => ⟨0x42, "MAS_ARR", "MAS", 0x42000000, 0xFFF00000⟩
  | .mpyC _ _ _ _ _ _ => ⟨0x44, "MPY.C_ARR", "MPY.C", 0x44000000, 0xFFE00000⟩
  | .macC _ _ _ _ _ _ => ⟨0x45, "MAC.C_ARR", "MAC.C", 0x45000000, 0xFFE00000⟩
  | .masC _ _ _ _ _ _ => ⟨0x46, "MAS.C_ARR", "MAS.C", 0x46000000, 0xFFE00000⟩
  | .cpVR _ _ _ _ => ⟨0x48, "CP_VR", "CP", 0x48000000, 0xFFFFC000⟩
  | .cpRV _ _ _ _ => ⟨0x49, "CP_RV", "CP", 0x49000000, 0xFFFFC000⟩
  | .cpAA _ _ _ => ⟨0x4A, "CP_AA", "CP", 0x4A000000, 0xFFFFFC00⟩
  | .cpGR _ _ _ _ => ⟨0x4C, "CP_GR", "CP", 0x4C000000, 0xFFFFC000⟩
  | .cpRG _ _ _ _ => ⟨0x4D, "CP_RG", "CP", 0x4D000000, 0xFFFFC000⟩
  | .cpCR _ _ _ => ⟨0x4E, "CP_CR", "CP", 0x4E000000, 0xFFFFE000⟩
  | .cpRC _ _ _ => ⟨0x4F, "CP_RC", "CP", 0x4F000000, 0xFFFFE000⟩
  | .ldRI _ _ _ => ⟨0x50, "LD_RI", "LD", 0x50000000, 0xFFE00000⟩
  | .ldGI _ _ _ => ⟨0x51, "LD_GI", "LD", 0x51000000, 0xFFE00000⟩
  | .ldCI _ _ => ⟨0x52, "LD_CI", "LD", 0x52000000, 0xFFF00000⟩
  | .ldAbs _ _ => ⟨0x54, "LD_ABS", "LD", 0x54000000, 0xFFE00000⟩
  | .stAbs _ _ => ⟨0x55, "ST_ABS", "ST", 0x55000000, 0xFFE00000⟩
  | .ldCAbs _ _ => ⟨0x56, "LD.C_ABS", "LD.C", 0x56000000, 0xFFE00000⟩
  | .stCAbs _ _ => ⟨0x57, "ST.C_ABS", "ST.C", 0x57000000, 0xFFE00000⟩
  | .ldPostM _ _ _ _ => ⟨0x58, "LD_POSTM", "LD", 0x58000000, 0xFFFF8000⟩
  | .stPostM _ _ _ _ => ⟨0x59, "ST_POSTM", "ST", 0x59000000, 0xFFFF8000⟩
  | .ldCPostM _ _ _ _ => ⟨0x5A, "LD.C_POSTM", "LD.C", 0x5A000000, 0xFFFF8000⟩
  | .stCPostM _ _ _ _ => ⟨0x5B, "ST.C_POSTM", "ST.C", 0x5B000000, 0xFFFF8000⟩
  | .ldPreM _ _ _ _ => ⟨0x5C, "LD_PREM", "LD", 0x5C000000, 0xFFFF8000⟩
  | .stPreM _ _ _ _ => ⟨0x5D, "ST_PREM", "ST", 0x5D000000, 0xFFFF8000⟩
  | .ldCPreM _ _ _ _ => ⟨0x5E, "LD.C_PREM", "LD.C", 0x5E000000, 0xFFFF8000⟩
  | .stCPreM _ _ _ _ => ⟨0x5F, "ST.C_PREM", "ST.C", 0x5F000000, 0xFFFF8000⟩
  | .ldPostI _ _ _ _ => ⟨0x60, "LD_POSTI", "LD", 0x60000000, 0xFFF00000⟩
  | .stPostI _ _ _ _ => ⟨0x61, "ST_POSTI", "ST", 0x61000000, 0xFFF00000⟩
  | .ldCPostI _ _ _ _ => ⟨0x62, "LD.C_POSTI", "LD.C", 0x62000000, 0xFFF00000⟩
  | .stCPostI _ _ _ _ => ⟨0x63, "ST.C_POSTI", "ST.C", 0x63000000, 0xFFF00000⟩
  | .ldPreI _ _ _ _ => ⟨0x64, "LD_PREI", "LD", 0x64000000, 0xFFF00000⟩
  | .stPreI _ _ _ _ => ⟨0x65, "ST_PREI", "ST", 0x65000000, 0xFFF00000⟩
  | .ldCPreI _ _ _ _ => ⟨0x66, "LD.C_PREI", "LD.C", 0x66000000, 0xFFF00000⟩
  | .stCPreI _ _ _ _ => ⟨0x67, "ST.C_PREI", "ST.C", 0x67000000, 0xFFF00000⟩
  | .addLd _ _ _ _ _ _ _ => ⟨0x80, "ADD+LD", "ADD||LD", 0x80000000, 0xFC000000⟩
  | .addcLd _ _ _ _ _ _ _ => ⟨0x81, "ADDC+LD", "ADDC||LD", 0x84000000, 0xFC000000⟩
  | .subLd _ _ _ _ _ _ _ => ⟨0x82, "SUB+LD", "SUB||LD", 0x88000000, 0xFC000000⟩
  | .subbLd _ _ _ _ _ _ _ => ⟨0x83, "SUBB+LD", "SUBB||LD", 0x8C000000, 0xFC000000⟩
  | .andLd _ _ _ _ _ _ _ => ⟨0x84, "AND+LD", "AND||LD", 0x90000000, 0xFC000000⟩
  | .orLd _ _ _ _ _ _ _ => ⟨0x85, "OR+LD", "OR||LD", 0x94000000, 0xFC000000⟩
  | .xorLd _ _ _ _ _ _ _ => ⟨0x86, "XOR+LD", "XOR||LD", 0x98000000, 0xFC000000⟩
  | .mpyLd _ _ _ _ _ _ _ _ => ⟨0x90, "MPY+LD", "MPY||LD", 0xA0000000, 0xF8000000⟩
  | .macLd _ _ _ _ _ _ _ _ => ⟨0x91, "MAC+LD", "MAC||LD", 0xA8000000, 0xF8000000⟩
  | .masLd _ _ _ _ _ _ _ _ => ⟨0x92, "MAS+LD", "MAS||LD", 0xB0000000, 0xF8000000⟩
  | .mpyLdLd _ _ _ _ _ _ _ _ _ _ _ => ⟨0xA0, "MPY+LD+LD", "MPY||LD||LD", 0xC0000000, 0xF8000000⟩
  | .macLdLd _ _ _ _ _ _ _ _ _ _ _ => ⟨0xA1, "MAC+LD+LD", "MAC||LD||LD", 0xC8000000, 0xF8000000⟩
  | .masLdLd _ _ _ _ _ _ _ _ _ _ _ => ⟨0xA2, "MAS+LD+LD", "MAS||LD||LD", 0xD0000000, 0xF8000000⟩
  | .ashiftSt _ _ _ _ _ _ _ => ⟨0xB0, "ASHIFT+ST", "ASHIFT||ST", 0xE0000000, 0xFC000000⟩
  | .lshiftSt _ _ _ _ _ _ _ => ⟨0xB1, "LSHIFT+ST", "LSHIFT||ST", 0xF0000000, 0xFC000000⟩

end Sys2Proof
end

