-- ==== Sys2Proof/Config.lean ====
section
/-! DEFINITION. The open parameters of the block (spec/00_scope.md R9, 93_implementation_defined.md
section 1) and the free values: constants with no body, of which nothing can be proved. -/

namespace Sys2Proof

/-- The scalar open parameters of 00_scope.md R9. They are fixed for a run; State carries them so
that a statement about every state is a statement about every choice (log 1). -/
structure Params where
  /-- `P_DELAY_SLOT`: taken JUMP, CALL, RTS have one delay slot (45_control_flow.md R325). -/
  delaySlot : Bool
  /-- `P_ENTRY`: `PC` after hard reset (70_reset_and_hazards.md R440). -/
  entry : Addr
  /-- `P_DM_WORDS`: implemented data addresses are `0 .. dmWords-1` (20_memory.md R73). -/
  dmWords : Nat
  /-- `P_MAC_TAIL`: cycles charged to the last multiply of a streak (70_reset_and_hazards.md R462). -/
  macTail : Nat
  deriving DecidableEq, Repr

/-- The defaults R9 gives. -/
def Params.default : Params :=
  { delaySlot := false, entry := 0, dmWords := 65536, macTail := 1 }

/-- The range R9 gives to `P_DM_WORDS`. -/
def Params.legal (p : Params) : Bool := decide (1 ≤ p.dmWords ∧ p.dmWords ≤ 65536)

/-- FREE VALUE (log 2): the 12-bit word that lane `l` holds at data address `a` until something is
written there; "any value", fixed for the run (20_memory.md R75). -/
opaque Config.dmBackground (l : LaneId) (a : Nat) : DWord

/-- FREE VALUE (log 3): `P_DIVS` (43_shift_divide.md R258): dividend part, divisor, `AQ` to the
result and the new `AQ`. -/
opaque Config.divs (x y : DWord) (aq : Bool) : DWord × Bool

/-- FREE VALUE (log 3): `P_DIVQ` (43_shift_divide.md R259). -/
opaque Config.divq (x y : DWord) (aq : Bool) : DWord × Bool

/-- FREE VALUE (log 3): `P_POLAR` (41_complex.md R216): (re, im) to (magnitude, angle, overflow). -/
opaque Config.polar (re im : DWord) : DWord × DWord × Bool

/-- FREE VALUE (log 3): `P_RECT` (41_complex.md R217): (magnitude, angle) to (re, im, overflow). -/
opaque Config.rect (mag ang : DWord) : DWord × DWord × Bool

end Sys2Proof
end

