-- ==== Sys2Proof/Machine/State.lean ====
section
/-! DEFINITION. The architectural state (spec/10_state.md R20), complete, as plain data; the reasons a
step can stop; the state after hard reset (spec/70_reset_and_hazards.md R440). -/

namespace Sys2Proof.Machine

/-- One value per lane, lane 0 first (00_scope.md R13). -/
structure Lanes (α : Type) where
  l0 : α
  l1 : α
  l2 : α
  l3 : α
  deriving DecidableEq, Repr

/-- The value of lane `l`. -/
def Lanes.get {α : Type} (v : Lanes α) : LaneId → α
  | 0 => v.l0
  | 1 => v.l1
  | 2 => v.l2
  | 3 => v.l3

/-- All four lanes computed from the lane number. -/
def Lanes.ofFn {α : Type} (f : LaneId → α) : Lanes α := ⟨f 0, f 1, f 2, f 3⟩

/-- The same value in every lane. -/
def Lanes.all {α : Type} (x : α) : Lanes α := ⟨x, x, x, x⟩

/-- A word-addressed memory as the list of its listed words, addresses strictly rising
(`memWf` of Machine/Memory.lean). In program memory an unlisted address holds no word (20_memory.md
R71); in data memory it holds a word nothing has written yet, whose value is free (R75, log 2). -/
abbrev Memory (w : Nat) := List (Nat × BitVec w)

/-- The state each lane has its own copy of (10_state.md R20, the rows "per lane"). -/
structure LaneState where
  /-- `R[l][0..31]` (R21) -/
  r : Vector DWord 32
  /-- `ACC[l][0..7]` (R24) -/
  acc : Vector AccWord 8
  /-- `ASTAT_R[l]` (R31, R33) -/
  astatR : FlagBundle
  /-- `ASTAT_I[l]` -/
  astatI : FlagBundle
  /-- `ASTAT_C[l]` -/
  astatC : FlagBundle
  /-- `DM[l][..]`: the words `init_dm` or a store has written (20_memory.md R72, R75) -/
  dm : Memory 12
  deriving DecidableEq, Repr

/-- A loop-stack entry (10_state.md R50). -/
structure LoopEntry where
  /-- `LPBEGIN`: address of the first body instruction -/
  first : Addr
  /-- `LPEND`: address of the last body instruction -/
  last : Addr
  /-- `LPCNT` -/
  count : BitVec 16
  /-- `LPFOREVER` -/
  forever : Bool
  deriving DecidableEq, Repr

/-- The three flag bundles of one lane, as the status stack saves them. -/
structure Bundles where
  real : FlagBundle
  imag : FlagBundle
  comb : FlagBundle
  deriving DecidableEq, Repr

/-- A status-stack entry (10_state.md R51): the bundles of all four lanes and `MSTAT`. -/
structure StatusEntry where
  bundles : Lanes Bundles
  mstat : BitVec 1
  deriving DecidableEq, Repr

/-- Error classes with the codes of 60_exceptions.md R403. -/
inductive ErrorClass where
  | enc | shape | addr | stack | struct
  deriving DecidableEq, Repr

/-- The cases of the structural checks of 45_control_flow.md R327, in its order. -/
inductive TransferFault where
  | inDelaySlot | atLoopEnd | slotAtLoopEnd
  deriving DecidableEq, Repr

/-- What an error record names (60_exceptions.md R404); not normative (R402, log 6). -/
inductive ErrorInfo where
  /-- an illegal word -/
  | word (w : IWord)
  /-- a read-only control register as destination -/
  | readOnly (c : Ctl)
  /-- a structural check of a control transfer -/
  | transfer (t : TransferFault)
  /-- identical destination registers in a bundle -/
  | sameDestination
  /-- the effective address of an access that fails a check of 20_memory.md R86 -/
  | address (ea : Addr)
  deriving DecidableEq, Repr

/-- An error record of the execution unit: class, program address, info (60_exceptions.md R402). -/
structure ErrorRecord where
  cls : ErrorClass
  pos : Addr
  info : ErrorInfo
  deriving DecidableEq, Repr

/-- Why a step could stop. Closed and EMPTY: no rule of the spec stops the block; every error is
recorded and the step completes (60_exceptions.md R400, R401), so nothing raises one. Safe. -/
inductive Fault where
  deriving DecidableEq, Repr

/-- Why an instruction could be refused. -/
inductive Refusal where
  /-- Raised by the dispatcher for an instruction with no meaning yet; no arm raises it. Safe. -/
  | notModelled (mnemonic : String)
  deriving DecidableEq, Repr

/-- The state of the block (10_state.md R20) and, in `params`, the open parameters it runs with. -/
structure State where
  /-- the model's own field: the open parameters, constant for a run (00_scope.md R9, log 1) -/
  params : Params
  /-- everything replicated per lane -/
  lanes : Lanes LaneState
  /-- `I[0..7]` (R27) -/
  i : Vector Addr 8
  /-- `M[0..7]` (R27) -/
  m : Vector Addr 8
  /-- `L[0..7]` (R27) -/
  l : Vector Addr 8
  /-- `B[0..7]` (R27) -/
  b : Vector Addr 8
  /-- `PC` (R29) -/
  pc : Addr
  /-- `CNTR` (R30) -/
  cntr : BitVec 16
  /-- `MSTAT`: the one implemented bit, `BREV` (R36, log 4) -/
  mstat : BitVec 1
  /-- `SSTAT` (R37) -/
  sstat : BitVec 6
  /-- return-address stack, top first; its length is `PCSP` (R46, R49, log 5) -/
  pcStk : List Addr
  /-- loop stack, top first; its length is `LPSP` (R46, R50) -/
  lpStk : List LoopEntry
  /-- status stack, top first; its length is `STSSP` (R46, R51) -/
  stsStk : List StatusEntry
  /-- `ds_pending` (R53) -/
  dsPending : Bool
  /-- `ds_target` (R53) -/
  dsTarget : Addr
  /-- `prev_store` (R54) -/
  prevStore : Bool
  /-- `CYCLES` (R55) -/
  cycles : Nat
  /-- `ERRCNT` of the execution unit (R56) -/
  errCnt : Nat
  /-- `ERRLOG` of the execution unit, oldest first (R56) -/
  errLog : List ErrorRecord
  /-- `halted` (R57) -/
  halted : Bool
  /-- `IM` (20_memory.md R71) -/
  im : Memory 32
  deriving DecidableEq, Repr

/-- A lane after hard reset: registers, accumulators and flags 0, no data word written (R440). -/
def LaneState.reset : LaneState :=
  { r := Vector.replicate 32 0, acc := Vector.replicate 8 0,
    astatR := 0, astatI := 0, astatC := 0, dm := [] }

/-- The machine after hard reset with parameters `p`, nothing loaded (70_reset_and_hazards.md R440). -/
def State.resetWith (p : Params) : State :=
  { params := p, lanes := Lanes.all LaneState.reset,
    i := Vector.replicate 8 0, m := Vector.replicate 8 0,
    l := Vector.replicate 8 0, b := Vector.replicate 8 0,
    pc := p.entry, cntr := 0, mstat := 0, sstat := 0,
    pcStk := [], lpStk := [], stsStk := [],
    dsPending := false, dsTarget := 0, prevStore := false, cycles := 0,
    errCnt := 0, errLog := [], halted := false, im := [] }

/-- The machine after hard reset with the default parameters of 00_scope.md R9. -/
def State.reset : State := State.resetWith Params.default

/-- Lane `l` of the state. -/
def State.lane (s : State) (l : LaneId) : LaneState := s.lanes.get l

end Sys2Proof.Machine
end

