-- ==== Sys2Proof/Machine/Flags.lean ====
section
/-! DEFINITION. Flag bundles, conditions, and the arithmetic that computes results with their flags:
adder, logic, absolute value, negate, multiply-accumulate, shift (spec/10_state.md R31 to R35,
30_encoding.md R112, 40_alu.md, 41_complex.md R212, 42_mac.md R231 to R234, 43_shift_divide.md R251,
R252). -/

namespace Sys2Proof.Machine

/-! ## Flag bundles -/

/-- The bits of a flag bundle (10_state.md R33). -/
inductive Flag where
  | az | an | av | ac | asn | aq | mv | ss | sv | avs | mvs | svs
  deriving DecidableEq, Repr

/-- Bit position (R33); `asn` is the spec's `AS`. -/
def Flag.bit : Flag → Nat
  | .az => 0 | .an => 1 | .av => 2 | .ac => 3 | .asn => 4 | .aq => 5 | .mv => 6 | .ss => 7
  | .sv => 8 | .avs => 9 | .mvs => 10 | .svs => 11

/-- The sticky partner of a status bit (R35). -/
def Flag.sticky : Flag → Option Flag
  | .av => some .avs
  | .mv => some .mvs
  | .sv => some .svs
  | _ => none

/-- The value of a flag. -/
def flagOf (b : FlagBundle) (f : Flag) : Bool := b.getLsbD f.bit

/-- Replace one bit of a bundle. -/
def putFlag (b : FlagBundle) (f : Flag) (v : Bool) : FlagBundle :=
  if v then b ||| BitVec.twoPow 12 f.bit else b &&& ~~~(BitVec.twoPow 12 f.bit)

/-- Write a status bit: a 1 also sets the sticky partner, a 0 leaves it (R35). -/
def writeFlag (b : FlagBundle) (f : Flag) (v : Bool) : FlagBundle :=
  match f.sticky with
  | some g => if v then putFlag (putFlag b f v) g true else putFlag b f v
  | none => putFlag b f v

/-- A set of flag writes, flag and value. -/
abbrev FlagWrites := List (Flag × Bool)

/-- `setflags` (40_alu.md R184): the named bits are written, the sticky rule applied, the others kept. -/
def setFlags (b : FlagBundle) (ws : FlagWrites) : FlagBundle :=
  ws.foldl (fun b w => writeFlag b w.1 w.2) b

/-- The combined set of `cflags` (41_complex.md R212): AZ by conjunction, every other by disjunction. -/
def combineFlags (fr fi : FlagWrites) : FlagWrites :=
  List.zipWith (fun a b => (a.1, if a.1 = Flag.az then a.2 && b.2 else a.2 || b.2)) fr fi

/-- `pred(cond, F)` (30_encoding.md R112). -/
def condHolds (c : Cond) (b : FlagBundle) : Bool :=
  let lt := xor (flagOf b .an) (flagOf b .av)
  let le := lt || flagOf b .az
  match c with
  | .eq => flagOf b .az
  | .ne => !flagOf b .az
  | .gt => !le
  | .le => le
  | .lt => lt
  | .ge => !lt
  | .av => flagOf b .av
  | .notAv => !flagOf b .av
  | .ac => flagOf b .ac
  | .notAc => !flagOf b .ac
  | .mv => flagOf b .mv
  | .notMv => !flagOf b .mv
  | .always => true

/-! ## The ALU -/

/-- A 12-bit result with its carry and overflow. -/
structure Sum where
  r : DWord
  carry : Bool
  overflow : Bool
  deriving DecidableEq, Repr

/-- `ADD12(x, y, c)` (40_alu.md R182): the 13-bit sum, its low 12 bits, its carry, signed overflow. -/
def add12 (x y : DWord) (c : Bool) : Sum :=
  let s := x.toNat + y.toNat + c.toNat
  let r := BitVec.ofNat 12 s
  { r := r, carry := decide (2 ^ 12 ≤ s), overflow := x.msb == y.msb && r.msb != x.msb }

/-- `SUB12(x, y, c)` (R182): the sum with the complement, overflow on the original operands. -/
def sub12 (x y : DWord) (c : Bool) : Sum :=
  let s := add12 x (~~~y) c
  { r := s.r, carry := s.carry, overflow := x.msb != y.msb && s.r.msb != x.msb }

/-- AZ and AN of a 12-bit result (R183), then the given AV and AC. -/
def aluFlags (r : DWord) (av ac : Bool) : FlagWrites :=
  [(.az, r == 0), (.an, r.msb), (.av, av), (.ac, ac)]

/-- A result and the flags written with it. -/
structure Computed where
  r : DWord
  flags : FlagWrites
  deriving DecidableEq, Repr

/-- A sum as the result of an ALU instruction (R185 to R188). -/
def Sum.computed (s : Sum) : Computed := { r := s.r, flags := aluFlags s.r s.overflow s.carry }

/-- A logic result: AV and AC cleared (R189 to R192). -/
def logicResult (r : DWord) : Computed := { r := r, flags := aluFlags r false false }

/-- The seven two-source ALU operations (R185 to R191, R198). -/
inductive AluOp where
  | add | addc | sub | subb | and | or | xor
  deriving DecidableEq, Repr

/-- The operation on two 12-bit operands with the lane's AC before the step (R185 to R191). -/
def aluCompute (op : AluOp) (x y : DWord) (ac : Bool) : Computed :=
  match op with
  | .add => (add12 x y false).computed
  | .addc => (add12 x y ac).computed
  | .sub => (sub12 x y true).computed
  | .subb => (sub12 x y ac).computed
  | .and => logicResult (x &&& y)
  | .or => logicResult (x ||| y)
  | .xor => logicResult (x ^^^ y)

/-- `ABS` (R193): 0x800 stays 0x800 with AV; AS is the sign of the input. -/
def absCompute (x : DWord) : Computed :=
  let r := if x.msb then trunc 12 (-x.toInt) else x
  { r := r, flags := aluFlags r (x == 0x800) false ++ [(.asn, x.msb)] }

/-- `NEG` (R194): the 13-bit sum of the complement and 1. -/
def negCompute (x : DWord) : Computed :=
  let s := (~~~x).toNat + 1
  let r := BitVec.ofNat 12 s
  { r := r, flags := aluFlags r (x == 0x800) (decide (2 ^ 12 ≤ s)) }

/-! ## The multiplier -/

/-- Accumulation kind of `MACOP` (42_mac.md R233). -/
inductive MacKind where
  | mpy | mac | mas
  deriving DecidableEq, Repr

/-- What an option means (R232): x signed, y signed, rounding. -/
structure MacMode where
  xSigned : Bool
  ySigned : Bool
  round : Bool
  deriving DecidableEq, Repr

/-- The option table (R232). -/
def macMode : MacOpt → MacMode
  | .ss => ⟨true, true, false⟩
  | .su => ⟨true, false, false⟩
  | .us => ⟨false, true, false⟩
  | .uu => ⟨false, false, false⟩
  | .rnd => ⟨true, true, true⟩

/-- The 1-bit option of the 3-way bundle (47_multifunction.md R386). -/
def macOptOf1 : MacOpt1 → MacOpt
  | .ss => .ss
  | .rnd => .rnd

/-- `val(v, signed)` (42_mac.md R231). -/
def macOperand (v : DWord) (signed : Bool) : Int := if signed then v.toInt else v.toNat

/-- The exact result of `MACOP` before saturation (R233). -/
def macExact (kind : MacKind) (acc : AccWord) (p : Int) (round : Bool) : Int :=
  let res := match kind with
    | .mpy => p
    | .mac => acc.toInt + p
    | .mas => acc.toInt - p
  if round then res + 0x800 else res

/-- Saturation to the 32-bit accumulator (R233). -/
def saturate32 (n : Int) : AccWord :=
  if n > 2 ^ 31 - 1 then trunc 32 (2 ^ 31 - 1)
  else if n < -2 ^ 31 then trunc 32 (-2 ^ 31)
  else trunc 32 n

/-- `MV`: the exact result does not fit 24 signed bits (R233). -/
def macMv (n : Int) : Bool := decide (n < -2 ^ 23) || decide (n > 2 ^ 23 - 1)

/-- The real product of two registers under an option (R231, R235). -/
def macProduct (o : MacOpt) (x y : DWord) : Int :=
  macOperand x (macMode o).xSigned * macOperand y (macMode o).ySigned

/-- The imaginary part of the second source, conjugated exactly if asked (R238). -/
def macImagY (conj : Bool) (o : MacOpt) (yi : DWord) : Int :=
  if conj then -macOperand yi (macMode o).ySigned else macOperand yi (macMode o).ySigned

/-- Real part of the complex product (R238). -/
def macProductRe (conj : Bool) (o : MacOpt) (xr xi yr yi : DWord) : Int :=
  macOperand xr (macMode o).xSigned * macOperand yr (macMode o).ySigned
    - macOperand xi (macMode o).xSigned * macImagY conj o yi

/-- Imaginary part of the complex product (R238). -/
def macProductIm (conj : Bool) (o : MacOpt) (xr xi yr yi : DWord) : Int :=
  macOperand xr (macMode o).xSigned * macImagY conj o yi
    + macOperand xi (macMode o).xSigned * macOperand yr (macMode o).ySigned

/-! ## The shifter -/

/-- Shift kind (43_shift_divide.md R252). -/
inductive ShiftKind where
  | arith | logic
  deriving DecidableEq, Repr

/-- The clamped shift amount (R251). -/
def clampShift (n : Int) : Int := max (-12) (min 12 n)

/-- `SHIFT12(kind, x, n)` for a clamped amount (R252), with SS and SV. -/
def shiftCompute (kind : ShiftKind) (x : DWord) (n : Int) : Computed :=
  if 0 ≤ n then
    match kind with
    | .arith =>
      let full := x.toInt * 2 ^ n.toNat
      let r := trunc 12 full
      { r := r, flags := [(.ss, x.msb), (.sv, r.toInt != full)] }
    | .logic =>
      let full := x.toNat * 2 ^ n.toNat
      { r := BitVec.ofNat 12 full, flags := [(.ss, x.msb), (.sv, decide (2 ^ 12 ≤ full))] }
  else
    match kind with
    | .arith => { r := trunc 12 (x.toInt / 2 ^ (-n).toNat), flags := [(.ss, x.msb), (.sv, false)] }
    | .logic =>
      { r := BitVec.ofNat 12 (x.toNat / 2 ^ (-n).toNat), flags := [(.ss, x.msb), (.sv, false)] }

end Sys2Proof.Machine
end

