-- ==== Sys2Proof/Machine/Memory.lean ====
section
/-! DEFINITION. The word-addressed memories (spec/20_memory.md R70 to R78): reading, writing, the
canonical form of the list that holds them. -/

namespace Sys2Proof.Machine

/-- The listed word at `a`, if there is one. -/
def memFind {w : Nat} : Memory w → Nat → Option (BitVec w)
  | [], _ => none
  | (k, v) :: rest, a => if k = a then some v else memFind rest a

/-- List `v` at `a`, keeping addresses rising. A write never removes an entry: an unlisted program
address holds no word at all, and what an unlisted data word reads as is a free value that no
written word can be compared with (log 2). -/
def memPut {w : Nat} : Memory w → Nat → BitVec w → Memory w
  | [], a, v => [(a, v)]
  | (k, x) :: rest, a, v =>
    if a < k then (a, v) :: (k, x) :: rest
    else if a = k then (a, v) :: rest
    else (k, x) :: memPut rest a v

/-- The canonical form: addresses strictly rising. -/
def memWf {w : Nat} : Memory w → Bool
  | [] => true
  | [_] => true
  | (j, _) :: (k, v) :: rest => decide (j < k) && memWf ((k, v) :: rest)

/-- Every listed address is below `n`. -/
def memBelow {w : Nat} (n : Nat) (mem : Memory w) : Bool := mem.all fun e => decide (e.1 < n)

/-- `MemRead(l, a)` on the data memory of lane `l` (R76): the word last written there, or the free
value of a word nothing has written, the same at every read (R75). No side effect (R78). -/
def dmRead (l : LaneId) (mem : Memory 12) (a : Addr) : DWord :=
  match memFind mem a.toNat with
  | some v => v
  | none => Config.dmBackground l a.toNat

/-- `MemWrite(l, a, v)` on the data memory of one lane (R77). -/
def dmWrite (mem : Memory 12) (a : Addr) (v : DWord) : Memory 12 := memPut mem a.toNat v

/-- The instruction word at program address `a`; `none` where `IM` holds no word (R71). -/
def imWord (s : State) (a : Addr) : Option IWord := memFind s.im a.toNat

end Sys2Proof.Machine
end

