-- ==== Sys2Proof/Machine/Ops.lean ====
section
/-! DEFINITION. The named operations over State: lane registers, masks, shared registers, the three
stacks, the hazard classes of words, raising an error, and finishing a step with its latency and its
next address (spec/10_state.md R21 to R57, 45_control_flow.md R326, R327, R341, 60_exceptions.md R401,
70_reset_and_hazards.md R460 to R462). -/

namespace Sys2Proof.Machine

/-! ## Lane registers -/

/-- `R[l][i]` (10_state.md R21). -/
def getR (ln : LaneState) (i : Reg) : DWord := ln.r[i.val]

/-- Write `R[l][i]`. -/
def setR (ln : LaneState) (i : Reg) (v : DWord) : LaneState := { ln with r := ln.r.set i.val v }

/-- `ACC[l][k]` (R24). -/
def getAcc (ln : LaneState) (k : AccIx) : AccWord := ln.acc[k.val]

/-- Write `ACC[l][k]`. -/
def setAcc (ln : LaneState) (k : AccIx) (v : AccWord) : LaneState :=
  { ln with acc := ln.acc.set k.val v }

/-- `setflags(ASTAT_R[l], ..)` (40_alu.md R184). -/
def flagsR (ln : LaneState) (ws : FlagWrites) : LaneState :=
  { ln with astatR := setFlags ln.astatR ws }

/-- `cflags(l, fr, fi)` (41_complex.md R212). -/
def flagsC (ln : LaneState) (fr fi : FlagWrites) : LaneState :=
  { ln with
    astatR := setFlags ln.astatR fr
    astatI := setFlags ln.astatI fi
    astatC := setFlags ln.astatC (combineFlags fr fi) }

/-- The register after the named one: the imaginary part of a pair (10_state.md R22). -/
def oddOf (r : Reg) : Reg := r + 1

/-- The accumulator after the named one: the imaginary part of a pair (10_state.md R26). -/
def oddAcc (k : AccIx) : AccIx := k + 1

/-- A view read as 12 bits (10_state.md R25, 44_move_load_store.md R275). -/
def readView (v : View) (a : AccWord) : DWord :=
  match v with
  | .h => (a.extractLsb' 24 8).signExtend 12
  | .m => a.extractLsb' 12 12
  | .l => a.extractLsb' 0 12

/-- A view replaced, the other bits kept (10_state.md R25, 44_move_load_store.md R274). -/
def writeView (v : View) (a : AccWord) (x : DWord) : AccWord :=
  match v with
  | .h => x.extractLsb' 0 8 ++ a.extractLsb' 0 24
  | .m => a.extractLsb' 24 8 ++ x ++ a.extractLsb' 0 12
  | .l => a.extractLsb' 12 20 ++ x

/-! ## Masks -/

/-- A condition mask: one truth value per lane (00_scope.md R13). -/
abbrev Mask := Lanes Bool

/-- Every lane active: formats without a `cond` field (10_state.md R40). -/
def fullMask : Mask := Lanes.all true

/-- Mask of a real-class instruction, bundle or control transfer (10_state.md R39, R40). -/
def realMask (s : State) (c : Cond) : Mask := Lanes.ofFn fun k => condHolds c (s.lane k).astatR

/-- Mask of a complex-class instruction (10_state.md R39, R40). -/
def complexMask (s : State) (c : Cond) : Mask := Lanes.ofFn fun k => condHolds c (s.lane k).astatC

/-- `any(mask)` (00_scope.md R13). -/
def anyLane (k : Mask) : Bool := k.l0 || k.l1 || k.l2 || k.l3

/-- `first(mask)`: the lowest active lane (00_scope.md R13); 3 where no earlier lane is active, used
only under `anyLane`. -/
def firstLane (k : Mask) : LaneId := if k.l0 then 0 else if k.l1 then 1 else if k.l2 then 2 else 3

/-- Masked write of per-lane state (10_state.md R41): `f` sees the lane as it was before the step. -/
def mapMask (s : State) (k : Mask) (f : LaneId → LaneState → LaneState) : State :=
  { s with lanes := Lanes.ofFn fun n => if k.get n then f n (s.lane n) else s.lane n }

/-- The D-class value a shared destination receives: lane `first(mask)` (10_state.md R42). -/
def firstValue (s : State) (k : Mask) (rx : Reg) : DWord := getR (s.lane (firstLane k)) rx

/-! ## Shared registers -/

/-- An address-generator register (10_state.md R27). -/
def readG (s : State) (g : GClass) (k : GIx) : Addr :=
  match g with
  | .i => s.i[k.val]
  | .m => s.m[k.val]
  | .l => s.l[k.val]
  | .b => s.b[k.val]

/-- Write an address-generator register. -/
def writeG (s : State) (g : GClass) (k : GIx) (v : Addr) : State :=
  match g with
  | .i => { s with i := s.i.set k.val v }
  | .m => { s with m := s.m.set k.val v }
  | .l => { s with l := s.l.set k.val v }
  | .b => { s with b := s.b.set k.val v }

/-- Width conversion of a D-class value into an address-generator register (44_move_load_store.md
R271, R277): sign extension into M, zero extension into I, L, B. -/
def widenG (g : GClass) (v : DWord) : Addr :=
  match g with
  | .m => v.signExtend 16
  | _ => v.zeroExtend 16

/-- A control register read as 12 bits by lane `k` (44_move_load_store.md R280): `_DPID` is the lane
number, hard-wired (10_state.md R28). -/
def readCtl (s : State) (k : LaneId) (c : Ctl) : DWord :=
  match c with
  | .cntr => s.cntr.extractLsb' 0 12
  | .mstat => s.mstat.zeroExtend 12
  | .sstat => s.sstat.zeroExtend 12
  | .astatR => (s.lane k).astatR
  | .astatI => (s.lane k).astatI
  | .astatC => (s.lane k).astatC
  | .dpid => BitVec.ofNat 12 k.val

/-- `_SSTAT` and `_DPID` cannot be written (10_state.md R38). -/
def ctlReadOnly : Ctl → Bool
  | .sstat => true
  | .dpid => true
  | .cntr => false
  | .mstat => false
  | .astatR => false
  | .astatI => false
  | .astatC => false

/-- `MSTAT.BREV` (10_state.md R36). -/
def brev (s : State) : Bool := s.mstat == 1

/-- A whole-bundle write, verbatim, in the lanes of the mask (10_state.md R35). -/
def setBundle (c : Ctl) (v : FlagBundle) (ln : LaneState) : LaneState :=
  match c with
  | .astatR => { ln with astatR := v }
  | .astatI => { ln with astatI := v }
  | .astatC => { ln with astatC := v }
  | .cntr => ln
  | .mstat => ln
  | .sstat => ln
  | .dpid => ln

/-! ## Stacks (10_state.md R45 to R51) -/

/-- Depth of every stack (00_scope.md R8). -/
def stackDepth : Nat := 8

/-- Set a sticky bit of `SSTAT` (10_state.md R37). -/
def markStack (s : State) (bit : Nat) : State := { s with sstat := s.sstat ||| BitVec.twoPow 6 bit }

/-- `push(PCSTK, a)`: on a full stack nothing is pushed and `PCSTK_OVF` is set (R47). -/
def pushPc (s : State) (a : Addr) : State :=
  if stackDepth ≤ s.pcStk.length then markStack s 0 else { s with pcStk := a :: s.pcStk }

/-- `push(LPSTK, e)`: overflow sets `LPSTK_OVF` (R47). -/
def pushLoop (s : State) (e : LoopEntry) : State :=
  if stackDepth ≤ s.lpStk.length then markStack s 2 else { s with lpStk := e :: s.lpStk }

/-- The three flag bundles of a lane. -/
def bundlesOf (ln : LaneState) : Bundles := ⟨ln.astatR, ln.astatI, ln.astatC⟩

/-- A lane with its three flag bundles replaced. -/
def withBundles (ln : LaneState) (x : Bundles) : LaneState :=
  { ln with astatR := x.real, astatI := x.imag, astatC := x.comb }

/-- What `PUSH STS` saves (R51). -/
def statusEntry (s : State) : StatusEntry :=
  { bundles := Lanes.ofFn fun k => bundlesOf (s.lane k), mstat := s.mstat }

/-- `PUSH STS` (46_system.md R363): overflow sets `STSSTK_OVF`. -/
def pushStatus (s : State) : State :=
  if stackDepth ≤ s.stsStk.length then markStack s 4
  else { s with stsStk := statusEntry s :: s.stsStk }

/-- `POP STS` (46_system.md R364): underflow sets `STSSTK_UNF` and restores nothing. -/
def popStatus (s : State) : State :=
  match s.stsStk with
  | [] => markStack s 5
  | e :: rest =>
    { s with
      stsStk := rest
      mstat := e.mstat
      lanes := Lanes.ofFn fun k => withBundles (s.lane k) (e.bundles.get k) }

/-- What `RESET` writes (46_system.md R365, 70_reset_and_hazards.md R441). -/
def softReset (s : State) : State :=
  { s with
    mstat := 0
    sstat := 0
    lanes := Lanes.ofFn fun k => withBundles (s.lane k) ⟨0, 0, 0⟩
    pcStk := []
    lpStk := []
    stsStk := [] }

/-! ## Classes of words -/

/-- The hazard class of a word (44_move_load_store.md R294, 42_mac.md R241, 47_multifunction.md R392):
contains a load, contains a store, is multiply-class. -/
structure WordClass where
  load : Bool
  store : Bool
  mult : Bool
  deriving DecidableEq, Repr

/-- No load, no store, no multiply. -/
def plainWord : WordClass := ⟨false, false, false⟩

/-- A load of data memory. -/
def loadWord : WordClass := ⟨true, false, false⟩

/-- A store. -/
def storeWord : WordClass := ⟨false, true, false⟩

/-- A multiply. -/
def multWord : WordClass := ⟨false, false, true⟩

/-- A multiply bundled with loads. -/
def multLoadWord : WordClass := ⟨true, false, true⟩

/-- The class of every format (70_reset_and_hazards.md R461, R462). -/
def wordClass : Instr → WordClass
  | .nop => plainWord
  | .reset => plainWord
  | .pushSts => plainWord
  | .popSts => plainWord
  | .jump _ _ => plainWord
  | .call _ _ => plainWord
  | .rts _ => plainWord
  | .doUntil _ _ => plainWord
  | .addRRR _ _ _ _ => plainWord
  | .addcRRR _ _ _ _ => plainWord
  | .subRRR _ _ _ _ => plainWord
  | .subbRRR _ _ _ _ => plainWord
  | .andRRR _ _ _ _ => plainWord
  | .orRRR _ _ _ _ => plainWord
  | .xorRRR _ _ _ _ => plainWord
  | .notRR _ _ _ => plainWord
  | .absRR _ _ _ => plainWord
  | .negRR _ _ _ => plainWord
  | .cpRR _ _ _ => plainWord
  | .ashiftRRR _ _ _ _ => plainWord
  | .lshiftRRR _ _ _ _ => plainWord
  | .divsRRR _ _ _ _ => plainWord
  | .divqRRR _ _ _ _ => plainWord
  | .addRRI _ _ _ _ => plainWord
  | .addcRRI _ _ _ _ => plainWord
  | .subRRI _ _ _ _ => plainWord
  | .subbRRI _ _ _ _ => plainWord
  | .andRRI _ _ _ _ => plainWord
  | .orRRI _ _ _ _ => plainWord
  | .xorRRI _ _ _ _ => plainWord
  | .ashiftRRI _ _ _ _ => plainWord
  | .lshiftRRI _ _ _ _ => plainWord
  | .addC _ _ _ _ => plainWord
  | .subC _ _ _ _ => plainWord
  | .conjC _ _ _ => plainWord
  | .polarC _ _ _ => plainWord
  | .rectC _ _ _ => plainWord
  | .cpC _ _ _ => plainWord
  | .mpy _ _ _ _ _ => multWord
  | .mac _ _ _ _ _ => multWord
  | .mas _ _ _ _ _ => multWord
  | .mpyC _ _ _ _ _ _ => multWord
  | .macC _ _ _ _ _ _ => multWord
  | .masC _ _ _ _ _ _ => multWord
  | .cpVR _ _ _ _ => plainWord
  | .cpRV _ _ _ _ => plainWord
  | .cpAA _ _ _ => plainWord
  | .cpGR _ _ _ _ => plainWord
  | .cpRG _ _ _ _ => plainWord
  | .cpCR _ _ _ => plainWord
  | .cpRC _ _ _ => plainWord
  | .ldRI _ _ _ => plainWord
  | .ldGI _ _ _ => plainWord
  | .ldCI _ _ => plainWord
  | .ldAbs _ _ => loadWord
  | .stAbs _ _ => storeWord
  | .ldCAbs _ _ => loadWord
  | .stCAbs _ _ => storeWord
  | .ldPostM _ _ _ _ => loadWord
  | .stPostM _ _ _ _ => storeWord
  | .ldCPostM _ _ _ _ => loadWord
  | .stCPostM _ _ _ _ => storeWord
  | .ldPreM _ _ _ _ => loadWord
  | .stPreM _ _ _ _ => storeWord
  | .ldCPreM _ _ _ _ => loadWord
  | .stCPreM _ _ _ _ => storeWord
  | .ldPostI _ _ _ _ => loadWord
  | .stPostI _ _ _ _ => storeWord
  | .ldCPostI _ _ _ _ => loadWord
  | .stCPostI _ _ _ _ => storeWord
  | .ldPreI _ _ _ _ => loadWord
  | .stPreI _ _ _ _ => storeWord
  | .ldCPreI _ _ _ _ => loadWord
  | .stCPreI _ _ _ _ => storeWord
  | .addLd _ _ _ _ _ _ _ => loadWord
  | .addcLd _ _ _ _ _ _ _ => loadWord
  | .subLd _ _ _ _ _ _ _ => loadWord
  | .subbLd _ _ _ _ _ _ _ => loadWord
  | .andLd _ _ _ _ _ _ _ => loadWord
  | .orLd _ _ _ _ _ _ _ => loadWord
  | .xorLd _ _ _ _ _ _ _ => loadWord
  | .mpyLd _ _ _ _ _ _ _ _ => multLoadWord
  | .macLd _ _ _ _ _ _ _ _ => multLoadWord
  | .masLd _ _ _ _ _ _ _ _ => multLoadWord
  | .mpyLdLd _ _ _ _ _ _ _ _ _ _ _ => multLoadWord
  | .macLdLd _ _ _ _ _ _ _ _ _ _ _ => multLoadWord
  | .masLdLd _ _ _ _ _ _ _ _ _ _ _ => multLoadWord
  | .ashiftSt _ _ _ _ _ _ _ => storeWord
  | .lshiftSt _ _ _ _ _ _ _ => storeWord

/-- `JUMP`, `CALL`, `RTS`: the words that have a delay slot when `P_DELAY_SLOT` is on
(45_control_flow.md R325, R326). -/
def isTransfer : Instr → Bool
  | .nop => false
  | .reset => false
  | .pushSts => false
  | .popSts => false
  | .jump _ _ => true
  | .call _ _ => true
  | .rts _ => true
  | .doUntil _ _ => false
  | .addRRR _ _ _ _ => false
  | .addcRRR _ _ _ _ => false
  | .subRRR _ _ _ _ => false
  | .subbRRR _ _ _ _ => false
  | .andRRR _ _ _ _ => false
  | .orRRR _ _ _ _ => false
  | .xorRRR _ _ _ _ => false
  | .notRR _ _ _ => false
  | .absRR _ _ _ => false
  | .negRR _ _ _ => false
  | .cpRR _ _ _ => false
  | .ashiftRRR _ _ _ _ => false
  | .lshiftRRR _ _ _ _ => false
  | .divsRRR _ _ _ _ => false
  | .divqRRR _ _ _ _ => false
  | .addRRI _ _ _ _ => false
  | .addcRRI _ _ _ _ => false
  | .subRRI _ _ _ _ => false
  | .subbRRI _ _ _ _ => false
  | .andRRI _ _ _ _ => false
  | .orRRI _ _ _ _ => false
  | .xorRRI _ _ _ _ => false
  | .ashiftRRI _ _ _ _ => false
  | .lshiftRRI _ _ _ _ => false
  | .addC _ _ _ _ => false
  | .subC _ _ _ _ => false
  | .conjC _ _ _ => false
  | .polarC _ _ _ => false
  | .rectC _ _ _ => false
  | .cpC _ _ _ => false
  | .mpy _ _ _ _ _ => false
  | .mac _ _ _ _ _ => false
  | .mas _ _ _ _ _ => false
  | .mpyC _ _ _ _ _ _ => false
  | .macC _ _ _ _ _ _ => false
  | .masC _ _ _ _ _ _ => false
  | .cpVR _ _ _ _ => false
  | .cpRV _ _ _ _ => false
  | .cpAA _ _ _ => false
  | .cpGR _ _ _ _ => false
  | .cpRG _ _ _ _ => false
  | .cpCR _ _ _ => false
  | .cpRC _ _ _ => false
  | .ldRI _ _ _ => false
  | .ldGI _ _ _ => false
  | .ldCI _ _ => false
  | .ldAbs _ _ => false
  | .stAbs _ _ => false
  | .ldCAbs _ _ => false
  | .stCAbs _ _ => false
  | .ldPostM _ _ _ _ => false
  | .stPostM _ _ _ _ => false
  | .ldCPostM _ _ _ _ => false
  | .stCPostM _ _ _ _ => false
  | .ldPreM _ _ _ _ => false
  | .stPreM _ _ _ _ => false
  | .ldCPreM _ _ _ _ => false
  | .stCPreM _ _ _ _ => false
  | .ldPostI _ _ _ _ => false
  | .stPostI _ _ _ _ => false
  | .ldCPostI _ _ _ _ => false
  | .stCPostI _ _ _ _ => false
  | .ldPreI _ _ _ _ => false
  | .stPreI _ _ _ _ => false
  | .ldCPreI _ _ _ _ => false
  | .stCPreI _ _ _ _ => false
  | .addLd _ _ _ _ _ _ _ => false
  | .addcLd _ _ _ _ _ _ _ => false
  | .subLd _ _ _ _ _ _ _ => false
  | .subbLd _ _ _ _ _ _ _ => false
  | .andLd _ _ _ _ _ _ _ => false
  | .orLd _ _ _ _ _ _ _ => false
  | .xorLd _ _ _ _ _ _ _ => false
  | .mpyLd _ _ _ _ _ _ _ _ => false
  | .macLd _ _ _ _ _ _ _ _ => false
  | .masLd _ _ _ _ _ _ _ _ => false
  | .mpyLdLd _ _ _ _ _ _ _ _ _ _ _ => false
  | .macLdLd _ _ _ _ _ _ _ _ _ _ _ => false
  | .masLdLd _ _ _ _ _ _ _ _ _ _ _ => false
  | .ashiftSt _ _ _ _ _ _ _ => false
  | .lshiftSt _ _ _ _ _ _ _ => false

/-! ## Structural checks of control transfers -/

/-- The word at `s.pc` is in a static delay slot (45_control_flow.md R326). -/
def inStaticSlot (s : State) : Bool :=
  s.params.delaySlot &&
    match imWord s (s.pc - 1) with
    | none => false
    | some w =>
      match decode w with
      | .ok i => isTransfer i
      | .error _ => false

/-- The checks of 45_control_flow.md R327, in its order; `hasSlot` is true for JUMP, CALL, RTS. -/
def transferCheck (s : State) (hasSlot : Bool) : Option TransferFault :=
  if inStaticSlot s then some .inDelaySlot
  else
    match s.lpStk with
    | [] => none
    | e :: _ =>
      if s.pc = e.last then some .atLoopEnd
      else if s.params.delaySlot && hasSlot && s.pc + 1 == e.last then some .slotAtLoopEnd
      else none

/-! ## Errors, latency, the next address -/

/-- `raise` (60_exceptions.md R401, R402), the one way an error is taken: the record is appended and
counted; nothing else of the state changes. There is no handler and no return (R400, R411). -/
def raiseError (s : State) (cls : ErrorClass) (info : ErrorInfo) : State :=
  { s with
    errCnt := s.errCnt + 1
    errLog := s.errLog ++ [{ cls := cls, pos := s.pc, info := info }] }

/-- The address R462 peeks at: the loop's first word where the loop will repeat, else the next. -/
def peekAddr (s : State) : Addr :=
  match s.lpStk with
  | [] => s.pc + 1
  | e :: _ => if s.pc = e.last ∧ (e.forever = true ∨ e.count - 1 ≠ 0) then e.first else s.pc + 1

/-- `next_is_multiply(a)` (70_reset_and_hazards.md R462). -/
def nextIsMultiply (s : State) : Bool :=
  match imWord s (peekAddr s) with
  | none => false
  | some w =>
    match decode w with
    | .ok i => (wordClass i).mult
    | .error _ => false

/-- `latency_added` of a word that executed without error, from the state before it (R460 to R462). -/
def latencyAdded (k : WordClass) (s : State) : Nat :=
  (if k.load && s.prevStore then 1 else 0) +
    (if k.mult && !nextIsMultiply s then s.params.macTail else 0)

/-- Step 5 of R340: the base cycle, the added cycles, and `prev_store` (R460). -/
def tally (s : State) (added : Nat) (store : Bool) : State :=
  { s with cycles := s.cycles + 1 + added, prevStore := store }

/-- Case 3 and 4 of `NextCode` (45_control_flow.md R341): loop-end processing, else sequential. -/
def loopStep (s : State) : State :=
  match s.lpStk with
  | [] => { s with pc := s.pc + 1 }
  | e :: rest =>
    if s.pc = e.last then
      if e.forever then { s with pc := e.first }
      else if e.count - 1 = 0 then { s with lpStk := rest, pc := s.pc + 1 }
      else { s with lpStk := { e with count := e.count - 1 } :: rest, pc := e.first }
    else { s with pc := s.pc + 1 }

/-- `NextCode` (45_control_flow.md R341): a pending delay slot, then a taken transfer, then the loop
end, then the next address. It reads the loop stack as the word left it (R345, log 7). -/
def nextCode (s : State) (wasDs : Bool) (target : Option Addr) : State :=
  if wasDs then { s with dsPending := false, pc := s.dsTarget }
  else
    match target with
    | some t =>
      if s.params.delaySlot then { s with dsPending := true, dsTarget := t, pc := s.pc + 1 }
      else { s with pc := t }
    | none => loopStep s

/-- The outcome of an instruction rule: an error found in the read phase, or the state with every
write of the word made and the target of a taken transfer (00_scope.md R15, 45_control_flow.md R321). -/
inductive Verdict where
  | raised (cls : ErrorClass) (info : ErrorInfo)
  | wrote (s : State) (target : Option Addr)

/-- The end of a step for a word of class `k` that started in `s` (45_control_flow.md R340 steps 4 to
6, 60_exceptions.md R401): an error leaves `s` but for its record and finishes as a NOP. -/
def retire (k : WordClass) (s : State) : Verdict → State
  | .raised cls info => nextCode (tally (raiseError s cls info) 0 false) s.dsPending none
  | .wrote t target => nextCode (tally t (latencyAdded k s) k.store) s.dsPending target

/-- The step of a decoded instruction with verdict `v`. Every word completes: 60_exceptions.md R400. -/
def complete (i : Instr) (s : State) (v : Verdict) : Host.Outcome State Fault Refusal :=
  .next (retire (wordClass i) s v)

/-- The step of an illegal word: `E_SHAPE`, no effect (30_encoding.md R160). -/
def illegalWord (s : State) (w : IWord) : State := retire plainWord s (.raised .shape (.word w))

/-- The step that finds no instruction word (45_control_flow.md R340 step 2). -/
def endOfRun (s : State) : State := { s with halted := true }

end Sys2Proof.Machine
end

