-- ==== Sys2Proof/Machine/Operands.lean ====
section
/-! DEFINITION. Operand forms: y operands, shift amounts, and the five addressing modes with circular
buffers, bit reversal and the address checks (spec/40_alu.md R181, 43_shift_divide.md R251,
20_memory.md R80 to R86). -/

namespace Sys2Proof.Machine

/-- The y operand of a two-source instruction: a register of the lane or an 8-bit immediate. -/
inductive YOperand where
  | reg (ry : Reg)
  | imm (b : BitVec 8)
  deriving DecidableEq, Repr

/-- The 12-bit y operand (40_alu.md R181): the immediate is sign-extended. -/
def yValue (y : YOperand) (ln : LaneState) : DWord :=
  match y with
  | .reg ry => getR ln ry
  | .imm b => b.signExtend 12

/-- The clamped shift amount (43_shift_divide.md R251): the register or the immediate, read signed. -/
def shiftAmount (y : YOperand) (ln : LaneState) : Int :=
  match y with
  | .reg ry => clampShift (getR ln ry).toInt
  | .imm b => clampShift b.toInt

/-- An addressing-mode operand (20_memory.md R80). -/
inductive Mode where
  | abs (a : Addr)
  | postM (i m : GIx)
  | preM (i m : GIx)
  | postI (i : GIx) (imm : BitVec 8)
  | preI (i : GIx) (imm : BitVec 8)
  deriving DecidableEq, Repr

/-- `next(k, mod)` (20_memory.md R84): linear, or circular with exactly one correction. -/
def nextIndex (s : State) (k : GIx) (mod : Addr) : Addr :=
  let ik := s.i[k.val]
  let lk := s.l[k.val]
  let bk := s.b[k.val]
  if lk = 0 then ik + mod
  else
    let t : Int := ik.toNat + mod.toInt
    if (bk.toNat : Int) + lk.toNat ≤ t then trunc 16 (t - lk.toNat)
    else if t < (bk.toNat : Int) then trunc 16 (t + lk.toNat)
    else trunc 16 t

/-- `bitrev16` (20_memory.md R85): bit i of the result is bit 15-i. -/
def bitrev16 (v : Addr) : Addr := v.reverse

/-- The address a post-modify access drives (R82, R85): reversed only for I0..I3 with BREV. -/
def postAddr (s : State) (k : GIx) : Addr :=
  if brev s && decide (k.val < 4) then bitrev16 s.i[k.val] else s.i[k.val]

/-- The effective address of a mode (R80 to R83, R85). -/
def effAddr (s : State) : Mode → Addr
  | .abs a => a
  | .postM i _ => postAddr s i
  | .preM i m => s.i[i.val] + s.m[m.val]
  | .postI i _ => postAddr s i
  | .preI i imm => s.i[i.val] + imm.signExtend 16

/-- The post-modify update of a mode: which I register and its new value (R80, R82). -/
def postUpdate (s : State) : Mode → Option (GIx × Addr)
  | .abs _ => none
  | .postM i m => some (i, nextIndex s i s.m[m.val])
  | .preM _ _ => none
  | .postI i imm => some (i, nextIndex s i (imm.signExtend 16))
  | .preI _ _ => none

/-- The address checks (20_memory.md R86): range, then alignment of a complex access (60_exceptions.md
R406). The record of either is the address (R404), so no order of the two can be told apart (log 6). -/
def addrCheck (s : State) (cplx : Bool) (ea : Addr) : Option ErrorInfo :=
  if s.params.dmWords ≤ ea.toNat || (cplx && decide (s.params.dmWords ≤ ea.toNat + 1)) then
    some (.address ea)
  else if cplx && ea.getLsbD 0 then some (.address ea)
  else none

/-- The write of a post-modify update, done iff some lane is active (20_memory.md R82). -/
def applyPost (s : State) (k : Mask) (u : Option (GIx × Addr)) : State :=
  match u with
  | none => s
  | some (i, v) => if anyLane k then writeG s .i i v else s

/-- Index registers of bundle fields: `I0`..`I3`, `M0`..`M3` (30_encoding.md R111). -/
def lowIx (v : Ix4) : GIx := ⟨v.val, by omega⟩

/-- Index registers of the second load of a 3-way bundle: `I(4+v)`, `M(4+v)` (30_encoding.md R111). -/
def highIx (v : Ix4) : GIx := ⟨v.val + 4, by omega⟩

/-- A short register field names `R0`..`R7` (30_encoding.md R110). -/
def reg8 (v : Reg8) : Reg := ⟨v.val, by omega⟩

/-- The accumulator field of a 3-way bundle names `ACC0`..`ACC3` (30_encoding.md R111). -/
def acc4 (v : Acc4) : AccIx := ⟨v.val, by omega⟩

end Sys2Proof.Machine
end

