-- ==== Sys2Proof/Machine/Alu.lean ====
section
/-! DEFINITION. The integer ALU instructions (spec/40_alu.md R180 to R199). -/

namespace Sys2Proof.Machine

/-- A result written to `R[l][rd]` with its flags in `ASTAT_R[l]`. -/
def putComputed (ln : LaneState) (rd : Reg) (o : Computed) : LaneState :=
  flagsR (setR ln rd o.r) o.flags

/-- One lane of a two-source operation; the carry in is the lane's AC before the step (R185 to R191). -/
def aluLane (op : AluOp) (rx : Reg) (y : DWord) (ln : LaneState) : Computed :=
  aluCompute op (getR ln rx) y (flagOf ln.astatR .ac)

/-- A two-source ALU instruction in every active lane (R180). -/
def aluVerdict (op : AluOp) (rd rx : Reg) (y : YOperand) (c : Cond) (s : State) : Verdict :=
  .wrote (mapMask s (realMask s c) fun _ ln =>
    putComputed ln rd (aluLane op rx (yValue y ln) ln)) none

/-- A one-source ALU instruction in every active lane (R180). -/
def unaryVerdict (f : DWord → Computed) (rd rx : Reg) (c : Cond) (s : State) : Verdict :=
  .wrote (mapMask s (realMask s c) fun _ ln => putComputed ln rd (f (getR ln rx))) none

/-- `ADD Rd, Rx, Ry` (40_alu.md R185). -/
def execAddRRR (rd rx ry : Reg) (c : Cond) (s : State) : Host.Outcome State Fault Refusal :=
  complete (.addRRR rd rx ry c) s (aluVerdict .add rd rx (.reg ry) c s)

/-- `ADDC Rd, Rx, Ry` (40_alu.md R186). -/
def execAddcRRR (rd rx ry : Reg) (c : Cond) (s : State) : Host.Outcome State Fault Refusal :=
  complete (.addcRRR rd rx ry c) s (aluVerdict .addc rd rx (.reg ry) c s)

/-- `SUB Rd, Rx, Ry` (40_alu.md R187). -/
def execSubRRR (rd rx ry : Reg) (c : Cond) (s : State) : Host.Outcome State Fault Refusal :=
  complete (.subRRR rd rx ry c) s (aluVerdict .sub rd rx (.reg ry) c s)

/-- `SUBB Rd, Rx, Ry` (40_alu.md R188). -/
def execSubbRRR (rd rx ry : Reg) (c : Cond) (s : State) : Host.Outcome State Fault Refusal :=
  complete (.subbRRR rd rx ry c) s (aluVerdict .subb rd rx (.reg ry) c s)

/-- `AND Rd, Rx, Ry` (40_alu.md R189). -/
def execAndRRR (rd rx ry : Reg) (c : Cond) (s : State) : Host.Outcome State Fault Refusal :=
  complete (.andRRR rd rx ry c) s (aluVerdict .and rd rx (.reg ry) c s)

/-- `OR Rd, Rx, Ry` (40_alu.md R190). -/
def execOrRRR (rd rx ry : Reg) (c : Cond) (s : State) : Host.Outcome State Fault Refusal :=
  complete (.orRRR rd rx ry c) s (aluVerdict .or rd rx (.reg ry) c s)

/-- `XOR Rd, Rx, Ry` (40_alu.md R191). -/
def execXorRRR (rd rx ry : Reg) (c : Cond) (s : State) : Host.Outcome State Fault Refusal :=
  complete (.xorRRR rd rx ry c) s (aluVerdict .xor rd rx (.reg ry) c s)

/-- `ADD Rd, Rx, #s8` (40_alu.md R185). -/
def execAddRRI (rd rx : Reg) (imm : BitVec 8) (c : Cond) (s : State) :
    Host.Outcome State Fault Refusal :=
  complete (.addRRI rd rx imm c) s (aluVerdict .add rd rx (.imm imm) c s)

/-- `ADDC Rd, Rx, #s8` (40_alu.md R186). -/
def execAddcRRI (rd rx : Reg) (imm : BitVec 8) (c : Cond) (s : State) :
    Host.Outcome State Fault Refusal :=
  complete (.addcRRI rd rx imm c) s (aluVerdict .addc rd rx (.imm imm) c s)

/-- `SUB Rd, Rx, #s8` (40_alu.md R187). -/
def execSubRRI (rd rx : Reg) (imm : BitVec 8) (c : Cond) (s : State) :
    Host.Outcome State Fault Refusal :=
  complete (.subRRI rd rx imm c) s (aluVerdict .sub rd rx (.imm imm) c s)

/-- `SUBB Rd, Rx, #s8` (40_alu.md R188). -/
def execSubbRRI (rd rx : Reg) (imm : BitVec 8) (c : Cond) (s : State) :
    Host.Outcome State Fault Refusal :=
  complete (.subbRRI rd rx imm c) s (aluVerdict .subb rd rx (.imm imm) c s)

/-- `AND Rd, Rx, #s8` (40_alu.md R189). -/
def execAndRRI (rd rx : Reg) (imm : BitVec 8) (c : Cond) (s : State) :
    Host.Outcome State Fault Refusal :=
  complete (.andRRI rd rx imm c) s (aluVerdict .and rd rx (.imm imm) c s)

/-- `OR Rd, Rx, #s8` (40_alu.md R190). -/
def execOrRRI (rd rx : Reg) (imm : BitVec 8) (c : Cond) (s : State) :
    Host.Outcome State Fault Refusal :=
  complete (.orRRI rd rx imm c) s (aluVerdict .or rd rx (.imm imm) c s)

/-- `XOR Rd, Rx, #s8` (40_alu.md R191). -/
def execXorRRI (rd rx : Reg) (imm : BitVec 8) (c : Cond) (s : State) :
    Host.Outcome State Fault Refusal :=
  complete (.xorRRI rd rx imm c) s (aluVerdict .xor rd rx (.imm imm) c s)

/-- `NOT Rd, Rx` (R192). -/
def execNotRR (rd rx : Reg) (c : Cond) (s : State) : Host.Outcome State Fault Refusal :=
  complete (.notRR rd rx c) s (unaryVerdict (fun x => logicResult (~~~x)) rd rx c s)

/-- `ABS Rd, Rx` (R193). -/
def execAbsRR (rd rx : Reg) (c : Cond) (s : State) : Host.Outcome State Fault Refusal :=
  complete (.absRR rd rx c) s (unaryVerdict absCompute rd rx c s)

/-- `NEG Rd, Rx` (R194). -/
def execNegRR (rd rx : Reg) (c : Cond) (s : State) : Host.Outcome State Fault Refusal :=
  complete (.negRR rd rx c) s (unaryVerdict negCompute rd rx c s)

end Sys2Proof.Machine
end

