-- ==== Sys2Proof/Machine/LoadStore.lean ====
section
/-! DEFINITION. Loads and stores in the five addressing modes (spec/44_move_load_store.md R286 to R297). -/

namespace Sys2Proof.Machine

/-- A loaded word into one lane's register (44_move_load_store.md R286). -/
def loadLane (ea : Addr) (r : Reg) (n : LaneId) (ln : LaneState) : LaneState :=
  setR ln r (dmRead n ln.dm ea)

/-- A loaded pair into one lane's register pair: real part at `ea`, imaginary part at `ea + 1`. -/
def loadPairLane (ea : Addr) (r : Reg) (n : LaneId) (ln : LaneState) : LaneState :=
  setR (setR ln r (dmRead n ln.dm ea)) (oddOf r) (dmRead n ln.dm (ea + 1))

/-- A stored register of one lane. -/
def storeLane (ea : Addr) (r : Reg) (ln : LaneState) : LaneState :=
  { ln with dm := dmWrite ln.dm ea (getR ln r) }

/-- A stored register pair of one lane. -/
def storePairLane (ea : Addr) (r : Reg) (ln : LaneState) : LaneState :=
  { ln with dm := dmWrite (dmWrite ln.dm ea (getR ln r)) (ea + 1) (getR ln (oddOf r)) }

/-- The common sequence of `LD`, `ST`, `LD.C`, `ST.C` (R286): address, checks even if no lane is
active, masked lane writes, and the post-modify update iff some lane is active. -/
def memVerdict (cplx : Bool) (mode : Mode) (k : Mask) (s : State)
    (f : Addr → LaneId → LaneState → LaneState) : Verdict :=
  match addrCheck s cplx (effAddr s mode) with
  | some info => .raised .addr info
  | none => .wrote (applyPost (mapMask s k (f (effAddr s mode))) k (postUpdate s mode)) none

/-- `LD` by mode (R290). -/
def loadVerdict (mode : Mode) (k : Mask) (r : Reg) (s : State) : Verdict :=
  memVerdict false mode k s fun ea n ln => loadLane ea r n ln

/-- `ST` by mode (R291). -/
def storeVerdict (mode : Mode) (k : Mask) (r : Reg) (s : State) : Verdict :=
  memVerdict false mode k s fun ea _ ln => storeLane ea r ln

/-- `LD.C` by mode (R292). -/
def loadPairVerdict (mode : Mode) (k : Mask) (r : Reg) (s : State) : Verdict :=
  memVerdict true mode k s fun ea n ln => loadPairLane ea r n ln

/-- `ST.C` by mode (R293). -/
def storePairVerdict (mode : Mode) (k : Mask) (r : Reg) (s : State) : Verdict :=
  memVerdict true mode k s fun ea _ ln => storePairLane ea r ln

/-- `LD Rd, DM(addr16)` (44_move_load_store.md R290). -/
def execLdAbs (r : Reg) (a : BitVec 16) (s : State) : Host.Outcome State Fault Refusal :=
  complete (.ldAbs r a) s (loadVerdict (.abs a) fullMask r s)

/-- `ST DM(addr16), Rs` (44_move_load_store.md R291). -/
def execStAbs (r : Reg) (a : BitVec 16) (s : State) : Host.Outcome State Fault Refusal :=
  complete (.stAbs r a) s (storeVerdict (.abs a) fullMask r s)

/-- `LD.C Rd, DM(addr16)` (44_move_load_store.md R292). -/
def execLdCAbs (r : Reg) (a : BitVec 16) (s : State) : Host.Outcome State Fault Refusal :=
  complete (.ldCAbs r a) s (loadPairVerdict (.abs a) fullMask r s)

/-- `ST.C DM(addr16), Rs` (44_move_load_store.md R293). -/
def execStCAbs (r : Reg) (a : BitVec 16) (s : State) : Host.Outcome State Fault Refusal :=
  complete (.stCAbs r a) s (storePairVerdict (.abs a) fullMask r s)

/-- `LD Rd, DM(Ik += Mj)` (44_move_load_store.md R290). -/
def execLdPostM (r : Reg) (i m : GIx) (c : Cond) (s : State) : Host.Outcome State Fault Refusal :=
  complete (.ldPostM r i m c) s (loadVerdict (.postM i m) (realMask s c) r s)

/-- `ST DM(Ik += Mj), Rs` (44_move_load_store.md R291). -/
def execStPostM (r : Reg) (i m : GIx) (c : Cond) (s : State) : Host.Outcome State Fault Refusal :=
  complete (.stPostM r i m c) s (storeVerdict (.postM i m) (realMask s c) r s)

/-- `LD.C Rd, DM(Ik += Mj)` (44_move_load_store.md R292). -/
def execLdCPostM (r : Reg) (i m : GIx) (c : Cond) (s : State) : Host.Outcome State Fault Refusal :=
  complete (.ldCPostM r i m c) s (loadPairVerdict (.postM i m) (complexMask s c) r s)

/-- `ST.C DM(Ik += Mj), Rs` (44_move_load_store.md R293). -/
def execStCPostM (r : Reg) (i m : GIx) (c : Cond) (s : State) : Host.Outcome State Fault Refusal :=
  complete (.stCPostM r i m c) s (storePairVerdict (.postM i m) (complexMask s c) r s)

/-- `LD Rd, DM(Ik + Mj)` (44_move_load_store.md R290). -/
def execLdPreM (r : Reg) (i m : GIx) (c : Cond) (s : State) : Host.Outcome State Fault Refusal :=
  complete (.ldPreM r i m c) s (loadVerdict (.preM i m) (realMask s c) r s)

/-- `ST DM(Ik + Mj), Rs` (44_move_load_store.md R291). -/
def execStPreM (r : Reg) (i m : GIx) (c : Cond) (s : State) : Host.Outcome State Fault Refusal :=
  complete (.stPreM r i m c) s (storeVerdict (.preM i m) (realMask s c) r s)

/-- `LD.C Rd, DM(Ik + Mj)` (44_move_load_store.md R292). -/
def execLdCPreM (r : Reg) (i m : GIx) (c : Cond) (s : State) : Host.Outcome State Fault Refusal :=
  complete (.ldCPreM r i m c) s (loadPairVerdict (.preM i m) (complexMask s c) r s)

/-- `ST.C DM(Ik + Mj), Rs` (44_move_load_store.md R293). -/
def execStCPreM (r : Reg) (i m : GIx) (c : Cond) (s : State) : Host.Outcome State Fault Refusal :=
  complete (.stCPreM r i m c) s (storePairVerdict (.preM i m) (complexMask s c) r s)

/-- `LD Rd, DM(Ik += imm8)` (44_move_load_store.md R290). -/
def execLdPostI (r : Reg) (i : GIx) (imm : BitVec 8) (c : Cond) (s : State) :
    Host.Outcome State Fault Refusal :=
  complete (.ldPostI r i imm c) s (loadVerdict (.postI i imm) (realMask s c) r s)

/-- `ST DM(Ik += imm8), Rs` (44_move_load_store.md R291). -/
def execStPostI (r : Reg) (i : GIx) (imm : BitVec 8) (c : Cond) (s : State) :
    Host.Outcome State Fault Refusal :=
  complete (.stPostI r i imm c) s (storeVerdict (.postI i imm) (realMask s c) r s)

/-- `LD.C Rd, DM(Ik += imm8)` (44_move_load_store.md R292). -/
def execLdCPostI (r : Reg) (i : GIx) (imm : BitVec 8) (c : Cond) (s : State) :
    Host.Outcome State Fault Refusal :=
  complete (.ldCPostI r i imm c) s (loadPairVerdict (.postI i imm) (complexMask s c) r s)

/-- `ST.C DM(Ik += imm8), Rs` (44_move_load_store.md R293). -/
def execStCPostI (r : Reg) (i : GIx) (imm : BitVec 8) (c : Cond) (s : State) :
    Host.Outcome State Fault Refusal :=
  complete (.stCPostI r i imm c) s (storePairVerdict (.postI i imm) (complexMask s c) r s)

/-- `LD Rd, DM(Ik + imm8)` (44_move_load_store.md R290). -/
def execLdPreI (r : Reg) (i : GIx) (imm : BitVec 8) (c : Cond) (s : State) :
    Host.Outcome State Fault Refusal :=
  complete (.ldPreI r i imm c) s (loadVerdict (.preI i imm) (realMask s c) r s)

/-- `ST DM(Ik + imm8), Rs` (44_move_load_store.md R291). -/
def execStPreI (r : Reg) (i : GIx) (imm : BitVec 8) (c : Cond) (s : State) :
    Host.Outcome State Fault Refusal :=
  complete (.stPreI r i imm c) s (storeVerdict (.preI i imm) (realMask s c) r s)

/-- `LD.C Rd, DM(Ik + imm8)` (44_move_load_store.md R292). -/
def execLdCPreI (r : Reg) (i : GIx) (imm : BitVec 8) (c : Cond) (s : State) :
    Host.Outcome State Fault Refusal :=
  complete (.ldCPreI r i imm c) s (loadPairVerdict (.preI i imm) (complexMask s c) r s)

/-- `ST.C DM(Ik + imm8), Rs` (44_move_load_store.md R293). -/
def execStCPreI (r : Reg) (i : GIx) (imm : BitVec 8) (c : Cond) (s : State) :
    Host.Outcome State Fault Refusal :=
  complete (.stCPreI r i imm c) s (storePairVerdict (.preI i imm) (complexMask s c) r s)

end Sys2Proof.Machine
end

