-- ==== Sys2Proof/Machine/Mac.lean ====
section
/-! DEFINITION. The multiplier and accumulator instructions (spec/42_mac.md R230 to R244). -/

namespace Sys2Proof.Machine

/-- An accumulator and `MV` written from the exact result (42_mac.md R233, R234). -/
def macLane (kind : MacKind) (o : MacOpt) (acc : AccIx) (rx ry : Reg) (ln : LaneState) : LaneState :=
  let n := macExact kind (getAcc ln acc) (macProduct o (getR ln rx) (getR ln ry)) (macMode o).round
  flagsR (setAcc ln acc (saturate32 n)) [(.mv, macMv n)]

/-- A real multiplier instruction in every active lane (R230, R235). -/
def macVerdict (kind : MacKind) (o : MacOpt) (acc : AccIx) (rx ry : Reg) (c : Cond) (s : State) :
    Verdict :=
  .wrote (mapMask s (realMask s c) fun _ ln => macLane kind o acc rx ry ln) none

/-- Exact real part of a complex multiplier operation (R238). -/
def macRe (kind : MacKind) (conj : Bool) (o : MacOpt) (acc : AccIx) (rx ry : Reg) (ln : LaneState) :
    Int :=
  macExact kind (getAcc ln acc)
    (macProductRe conj o (getR ln rx) (getR ln (oddOf rx)) (getR ln ry) (getR ln (oddOf ry)))
    (macMode o).round

/-- Exact imaginary part of a complex multiplier operation (R238). -/
def macIm (kind : MacKind) (conj : Bool) (o : MacOpt) (acc : AccIx) (rx ry : Reg) (ln : LaneState) :
    Int :=
  macExact kind (getAcc ln (oddAcc acc))
    (macProductIm conj o (getR ln rx) (getR ln (oddOf rx)) (getR ln ry) (getR ln (oddOf ry)))
    (macMode o).round

/-- One lane of a complex multiplier instruction: both accumulators of the pair, and MV in the three
bundles (R238). -/
def macComplexLane (kind : MacKind) (conj : Bool) (o : MacOpt) (acc : AccIx) (rx ry : Reg)
    (ln : LaneState) : LaneState :=
  let re := macRe kind conj o acc rx ry ln
  let im := macIm kind conj o acc rx ry ln
  flagsC (setAcc (setAcc ln acc (saturate32 re)) (oddAcc acc) (saturate32 im))
    [(.mv, macMv re)] [(.mv, macMv im)]

/-- A complex multiplier instruction in every active lane (R238 to R240). -/
def macComplexVerdict (kind : MacKind) (conj : Bool) (o : MacOpt) (acc : AccIx) (rx ry : Reg)
    (c : Cond) (s : State) : Verdict :=
  .wrote (mapMask s (complexMask s c) fun _ ln => macComplexLane kind conj o acc rx ry ln) none

/-- `MPY ACCk, Rx, Ry (opt)` (42_mac.md R235). -/
def execMpy (opt : MacOpt) (acc : AccIx) (rx ry : Reg) (c : Cond) (s : State) :
    Host.Outcome State Fault Refusal :=
  complete (.mpy opt acc rx ry c) s (macVerdict .mpy opt acc rx ry c s)

/-- `MAC ACCk, Rx, Ry (opt)` (42_mac.md R236). -/
def execMac (opt : MacOpt) (acc : AccIx) (rx ry : Reg) (c : Cond) (s : State) :
    Host.Outcome State Fault Refusal :=
  complete (.mac opt acc rx ry c) s (macVerdict .mac opt acc rx ry c s)

/-- `MAS ACCk, Rx, Ry (opt)` (42_mac.md R237). -/
def execMas (opt : MacOpt) (acc : AccIx) (rx ry : Reg) (c : Cond) (s : State) :
    Host.Outcome State Fault Refusal :=
  complete (.mas opt acc rx ry c) s (macVerdict .mas opt acc rx ry c s)

/-- `MPY.C ACCk, Rx, Ry[*] (opt)` (42_mac.md R238). -/
def execMpyC (conj : Bool) (opt : MacOpt) (acc : AccIx) (rx ry : Reg) (c : Cond) (s : State) :
    Host.Outcome State Fault Refusal :=
  complete (.mpyC conj opt acc rx ry c) s (macComplexVerdict .mpy conj opt acc rx ry c s)

/-- `MAC.C ACCk, Rx, Ry[*] (opt)` (42_mac.md R239). -/
def execMacC (conj : Bool) (opt : MacOpt) (acc : AccIx) (rx ry : Reg) (c : Cond) (s : State) :
    Host.Outcome State Fault Refusal :=
  complete (.macC conj opt acc rx ry c) s (macComplexVerdict .mac conj opt acc rx ry c s)

/-- `MAS.C ACCk, Rx, Ry[*] (opt)` (42_mac.md R240). -/
def execMasC (conj : Bool) (opt : MacOpt) (acc : AccIx) (rx ry : Reg) (c : Cond) (s : State) :
    Host.Outcome State Fault Refusal :=
  complete (.masC conj opt acc rx ry c) s (macComplexVerdict .mas conj opt acc rx ry c s)

end Sys2Proof.Machine
end

