-- ==== Sys2Proof/Machine/ShiftDivide.lean ====
section
/-! DEFINITION. The shifter and divide-step instructions (spec/43_shift_divide.md R250 to R261). -/

namespace Sys2Proof.Machine

/-- One lane of a shift (43_shift_divide.md R251, R252). -/
def shiftLane (kind : ShiftKind) (rx : Reg) (y : YOperand) (ln : LaneState) : Computed :=
  shiftCompute kind (getR ln rx) (shiftAmount y ln)

/-- A shift in every active lane (R250). -/
def shiftVerdict (kind : ShiftKind) (rd rx : Reg) (y : YOperand) (c : Cond) (s : State) : Verdict :=
  .wrote (mapMask s (realMask s c) fun _ ln =>
    let o := shiftLane kind rx y ln
    flagsR (setR ln rd o.r) o.flags) none

/-- A divide step in every active lane, by the step function `f`: result and AQ (R258, R259). -/
def divideVerdict (f : DWord → DWord → Bool → DWord × Bool) (rd rx ry : Reg) (c : Cond) (s : State) :
    Verdict :=
  .wrote (mapMask s (realMask s c) fun _ ln =>
    let o := f (getR ln rx) (getR ln ry) (flagOf ln.astatR .aq)
    flagsR (setR ln rd o.1) [(.aq, o.2)]) none

/-- `ASHIFT Rd, Rx, Ry` (43_shift_divide.md R253). -/
def execAshiftRRR (rd rx ry : Reg) (c : Cond) (s : State) : Host.Outcome State Fault Refusal :=
  complete (.ashiftRRR rd rx ry c) s (shiftVerdict .arith rd rx (.reg ry) c s)

/-- `ASHIFT Rd, Rx, #s8` (43_shift_divide.md R253). -/
def execAshiftRRI (rd rx : Reg) (imm : BitVec 8) (c : Cond) (s : State) :
    Host.Outcome State Fault Refusal :=
  complete (.ashiftRRI rd rx imm c) s (shiftVerdict .arith rd rx (.imm imm) c s)

/-- `LSHIFT Rd, Rx, Ry` (43_shift_divide.md R254). -/
def execLshiftRRR (rd rx ry : Reg) (c : Cond) (s : State) : Host.Outcome State Fault Refusal :=
  complete (.lshiftRRR rd rx ry c) s (shiftVerdict .logic rd rx (.reg ry) c s)

/-- `LSHIFT Rd, Rx, #s8` (43_shift_divide.md R254). -/
def execLshiftRRI (rd rx : Reg) (imm : BitVec 8) (c : Cond) (s : State) :
    Host.Outcome State Fault Refusal :=
  complete (.lshiftRRI rd rx imm c) s (shiftVerdict .logic rd rx (.imm imm) c s)

/-- `DIVS Rd, Rx, Ry` (R258): the function is the free value `Config.divs` (log 3). -/
def execDivsRRR (rd rx ry : Reg) (c : Cond) (s : State) : Host.Outcome State Fault Refusal :=
  complete (.divsRRR rd rx ry c) s (divideVerdict Config.divs rd rx ry c s)

/-- `DIVQ Rd, Rx, Ry` (R259): the function is the free value `Config.divq` (log 3). -/
def execDivqRRR (rd rx ry : Reg) (c : Cond) (s : State) : Host.Outcome State Fault Refusal :=
  complete (.divqRRR rd rx ry c) s (divideVerdict Config.divq rd rx ry c s)

end Sys2Proof.Machine
end

