-- ==== Sys2Proof/Machine/Bundle.lean ====
section
/-! DEFINITION. Multifunction bundles (spec/47_multifunction.md R380 to R393): one mask, one read phase,
one write phase, errors of any sub-operation discard the whole word. -/

namespace Sys2Proof.Machine

/-- The post-modify operand of a bundle's first memory slot (47_multifunction.md R381). -/
def lowMode (i m : Ix4) : Mode := .postM (lowIx i) (lowIx m)

/-- The post-modify operand of the second load of a 3-way bundle (R381). -/
def highMode (i m : Ix4) : Mode := .postM (highIx i) (highIx m)

/-- `ALU || LD` (R384): identical destinations first, then the address check, then both writes from
the old state. -/
def aluLdVerdict (op : AluOp) (rd rx ry : Reg) (lrd : Reg8) (li lm : Ix4) (c : Cond) (s : State) :
    Verdict :=
  if rd = reg8 lrd then .raised .struct .sameDestination
  else
    memVerdict false (lowMode li lm) (realMask s c) s fun ea n ln =>
      setR (putComputed ln rd (aluLane op rx (getR ln ry) ln)) (reg8 lrd) (dmRead n ln.dm ea)

/-- `MAC || LD` (R385). -/
def macLdVerdict (kind : MacKind) (o : MacOpt) (acc : AccIx) (rx ry : Reg) (lrd : Reg8) (li lm : Ix4)
    (c : Cond) (s : State) : Verdict :=
  memVerdict false (lowMode li lm) (realMask s c) s fun ea n ln =>
    setR (macLane kind o acc rx ry ln) (reg8 lrd) (dmRead n ln.dm ea)

/-- `MAC || LD || LD` (R386): the first load's address is checked before the second's. -/
def macLdLdVerdict (kind : MacKind) (o : MacOpt1) (acc : Acc4) (rx ry : Reg8) (l1rd : Reg8)
    (l1i l1m : Ix4) (l2rd : Reg8) (l2i l2m : Ix4) (c : Cond) (s : State) : Verdict :=
  if l1rd = l2rd then .raised .struct .sameDestination
  else
    let ea1 := effAddr s (lowMode l1i l1m)
    let ea2 := effAddr s (highMode l2i l2m)
    let k := realMask s c
    match addrCheck s false ea1 with
    | some info => .raised .addr info
    | none =>
      match addrCheck s false ea2 with
      | some info => .raised .addr info
      | none =>
        .wrote (applyPost (applyPost (mapMask s k fun n ln =>
            setR (setR (macLane kind (macOptOf1 o) (acc4 acc) (reg8 rx) (reg8 ry) ln) (reg8 l1rd)
              (dmRead n ln.dm ea1)) (reg8 l2rd) (dmRead n ln.dm ea2))
          k (postUpdate s (lowMode l1i l1m))) k (postUpdate s (highMode l2i l2m))) none

/-- `SHIFT || ST` (R387): the stored register is read before the shifter writes. -/
def shiftStVerdict (kind : ShiftKind) (rd rx ry : Reg) (srs : Reg8) (si sm : Ix4) (c : Cond)
    (s : State) : Verdict :=
  memVerdict false (lowMode si sm) (realMask s c) s fun ea _ ln =>
    let o := shiftLane kind rx (.reg ry) ln
    { flagsR (setR ln rd o.r) o.flags with dm := dmWrite ln.dm ea (getR ln (reg8 srs)) }

/-- `ADD .. || LD ..` (47_multifunction.md R384). -/
def execAddLd (rd rx ry : Reg) (lrd : Reg8) (li lm : Ix4) (c : Cond) (s : State) :
    Host.Outcome State Fault Refusal :=
  complete (.addLd rd rx ry lrd li lm c) s (aluLdVerdict .add rd rx ry lrd li lm c s)

/-- `ADDC .. || LD ..` (47_multifunction.md R384). -/
def execAddcLd (rd rx ry : Reg) (lrd : Reg8) (li lm : Ix4) (c : Cond) (s : State) :
    Host.Outcome State Fault Refusal :=
  complete (.addcLd rd rx ry lrd li lm c) s (aluLdVerdict .addc rd rx ry lrd li lm c s)

/-- `SUB .. || LD ..` (47_multifunction.md R384). -/
def execSubLd (rd rx ry : Reg) (lrd : Reg8) (li lm : Ix4) (c : Cond) (s : State) :
    Host.Outcome State Fault Refusal :=
  complete (.subLd rd rx ry lrd li lm c) s (aluLdVerdict .sub rd rx ry lrd li lm c s)

/-- `SUBB .. || LD ..` (47_multifunction.md R384). -/
def execSubbLd (rd rx ry : Reg) (lrd : Reg8) (li lm : Ix4) (c : Cond) (s : State) :
    Host.Outcome State Fault Refusal :=
  complete (.subbLd rd rx ry lrd li lm c) s (aluLdVerdict .subb rd rx ry lrd li lm c s)

/-- `AND .. || LD ..` (47_multifunction.md R384). -/
def execAndLd (rd rx ry : Reg) (lrd : Reg8) (li lm : Ix4) (c : Cond) (s : State) :
    Host.Outcome State Fault Refusal :=
  complete (.andLd rd rx ry lrd li lm c) s (aluLdVerdict .and rd rx ry lrd li lm c s)

/-- `OR .. || LD ..` (47_multifunction.md R384). -/
def execOrLd (rd rx ry : Reg) (lrd : Reg8) (li lm : Ix4) (c : Cond) (s : State) :
    Host.Outcome State Fault Refusal :=
  complete (.orLd rd rx ry lrd li lm c) s (aluLdVerdict .or rd rx ry lrd li lm c s)

/-- `XOR .. || LD ..` (47_multifunction.md R384). -/
def execXorLd (rd rx ry : Reg) (lrd : Reg8) (li lm : Ix4) (c : Cond) (s : State) :
    Host.Outcome State Fault Refusal :=
  complete (.xorLd rd rx ry lrd li lm c) s (aluLdVerdict .xor rd rx ry lrd li lm c s)

/-- `MPY .. || LD ..` (R385). -/
def execMpyLd (opt : MacOpt) (acc : AccIx) (rx ry : Reg) (lrd : Reg8) (li lm : Ix4) (c : Cond) (s : State) :
    Host.Outcome State Fault Refusal :=
  complete (.mpyLd opt acc rx ry lrd li lm c) s (macLdVerdict .mpy opt acc rx ry lrd li lm c s)

/-- `MAC .. || LD ..` (R385). -/
def execMacLd (opt : MacOpt) (acc : AccIx) (rx ry : Reg) (lrd : Reg8) (li lm : Ix4) (c : Cond) (s : State) :
    Host.Outcome State Fault Refusal :=
  complete (.macLd opt acc rx ry lrd li lm c) s (macLdVerdict .mac opt acc rx ry lrd li lm c s)

/-- `MAS .. || LD ..` (R385). -/
def execMasLd (opt : MacOpt) (acc : AccIx) (rx ry : Reg) (lrd : Reg8) (li lm : Ix4) (c : Cond) (s : State) :
    Host.Outcome State Fault Refusal :=
  complete (.masLd opt acc rx ry lrd li lm c) s (macLdVerdict .mas opt acc rx ry lrd li lm c s)

/-- `MPY .. || LD .. || LD ..` (R386). -/
def execMpyLdLd (opt : MacOpt1) (acc : Acc4) (rx ry l1rd : Reg8) (l1i l1m : Ix4) (l2rd : Reg8) (l2i l2m : Ix4) (c : Cond) (s : State) :
    Host.Outcome State Fault Refusal :=
  complete (.mpyLdLd opt acc rx ry l1rd l1i l1m l2rd l2i l2m c) s
    (macLdLdVerdict .mpy opt acc rx ry l1rd l1i l1m l2rd l2i l2m c s)

/-- `MAC .. || LD .. || LD ..` (R386). -/
def execMacLdLd (opt : MacOpt1) (acc : Acc4) (rx ry l1rd : Reg8) (l1i l1m : Ix4) (l2rd : Reg8) (l2i l2m : Ix4) (c : Cond) (s : State) :
    Host.Outcome State Fault Refusal :=
  complete (.macLdLd opt acc rx ry l1rd l1i l1m l2rd l2i l2m c) s
    (macLdLdVerdict .mac opt acc rx ry l1rd l1i l1m l2rd l2i l2m c s)

/-- `MAS .. || LD .. || LD ..` (R386). -/
def execMasLdLd (opt : MacOpt1) (acc : Acc4) (rx ry l1rd : Reg8) (l1i l1m : Ix4) (l2rd : Reg8) (l2i l2m : Ix4) (c : Cond) (s : State) :
    Host.Outcome State Fault Refusal :=
  complete (.masLdLd opt acc rx ry l1rd l1i l1m l2rd l2i l2m c) s
    (macLdLdVerdict .mas opt acc rx ry l1rd l1i l1m l2rd l2i l2m c s)

/-- `ASHIFT .. || ST ..` (R387). -/
def execAshiftSt (rd rx ry : Reg) (srs : Reg8) (si sm : Ix4) (c : Cond) (s : State) :
    Host.Outcome State Fault Refusal :=
  complete (.ashiftSt rd rx ry srs si sm c) s (shiftStVerdict .arith rd rx ry srs si sm c s)

/-- `LSHIFT .. || ST ..` (R387). -/
def execLshiftSt (rd rx ry : Reg) (srs : Reg8) (si sm : Ix4) (c : Cond) (s : State) :
    Host.Outcome State Fault Refusal :=
  complete (.lshiftSt rd rx ry srs si sm c) s (shiftStVerdict .logic rd rx ry srs si sm c s)

end Sys2Proof.Machine
end

