-- ==== Sys2Proof/Machine/Complex.lean ====
section
/-! DEFINITION. The complex ALU instructions (spec/41_complex.md R210 to R221). -/

namespace Sys2Proof.Machine

/-- A complex result written to a register pair with the flag triple (41_complex.md R210, R212). -/
def putComplex (ln : LaneState) (rd : Reg) (re im : Computed) : LaneState :=
  flagsC (setR (setR ln rd re.r) (oddOf rd) im.r) re.flags im.flags

/-- A two-source complex operation: the same operation on real and imaginary parts, no carry from one
into the other (R213, R214). -/
def complexVerdict (op : AluOp) (rd rx ry : Reg) (c : Cond) (s : State) : Verdict :=
  .wrote (mapMask s (complexMask s c) fun _ ln =>
    putComplex ln rd (aluCompute op (getR ln rx) (getR ln ry) false)
      (aluCompute op (getR ln (oddOf rx)) (getR ln (oddOf ry)) false)) none

/-- One lane of a conversion: the pair is replaced and only AV of `ASTAT_C` written (R216, R217). -/
def convertLane (f : DWord → DWord → DWord × DWord × Bool) (rd rx : Reg) (ln : LaneState) :
    LaneState :=
  let o := f (getR ln rx) (getR ln (oddOf rx))
  let ln' := setR (setR ln rd o.1) (oddOf rd) o.2.1
  { ln' with astatC := setFlags ln.astatC [(.av, o.2.2)] }

/-- A polar or rectangular conversion in every active lane (R216, R217). -/
def convertVerdict (f : DWord → DWord → DWord × DWord × Bool) (rd rx : Reg) (c : Cond) (s : State) :
    Verdict :=
  .wrote (mapMask s (complexMask s c) fun _ ln => convertLane f rd rx ln) none

/-- `CONJ.C` in every active lane: the real part passed through, the imaginary part negated (R215). -/
def conjVerdict (rd rx : Reg) (c : Cond) (s : State) : Verdict :=
  .wrote (mapMask s (complexMask s c) fun _ ln =>
    putComplex ln rd (logicResult (getR ln rx)) (negCompute (getR ln (oddOf rx)))) none

/-- `ADD.C Rd, Rx, Ry` (41_complex.md R213). -/
def execAddC (rd rx ry : Reg) (c : Cond) (s : State) : Host.Outcome State Fault Refusal :=
  complete (.addC rd rx ry c) s (complexVerdict .add rd rx ry c s)

/-- `SUB.C Rd, Rx, Ry` (R214). -/
def execSubC (rd rx ry : Reg) (c : Cond) (s : State) : Host.Outcome State Fault Refusal :=
  complete (.subC rd rx ry c) s (complexVerdict .sub rd rx ry c s)

/-- `CONJ.C Rd, Rx` (R215). -/
def execConjC (rd rx : Reg) (c : Cond) (s : State) : Host.Outcome State Fault Refusal :=
  complete (.conjC rd rx c) s (conjVerdict rd rx c s)

/-- `POLAR.C Rd, Rx` (R216): the function is the free value `Config.polar` (log 3). -/
def execPolarC (rd rx : Reg) (c : Cond) (s : State) : Host.Outcome State Fault Refusal :=
  complete (.polarC rd rx c) s (convertVerdict Config.polar rd rx c s)

/-- `RECT.C Rd, Rx` (R217): the function is the free value `Config.rect` (log 3). -/
def execRectC (rd rx : Reg) (c : Cond) (s : State) : Host.Outcome State Fault Refusal :=
  complete (.rectC rd rx c) s (convertVerdict Config.rect rd rx c s)

end Sys2Proof.Machine
end

