-- ==== Sys2Proof/Machine/Control.lean ====
section
/-! DEFINITION. Control transfers and the loop set-up (spec/45_control_flow.md R320 to R347). -/

namespace Sys2Proof.Machine

/-- Target of `JUMP` and `CALL` (30_encoding.md R117). -/
def branchTarget (s : State) (off : BitVec 16) : Addr := s.pc + off

/-- Return address `CALL` pushes (45_control_flow.md R331). -/
def returnAddr (s : State) : Addr := if s.params.delaySlot then s.pc + 2 else s.pc + 1

/-- Loop entry `DO` pushes (R333, 30_encoding.md R118): the count is `CNTR` now (10_state.md R30). -/
def loopEntry (s : State) (off : BitVec 16) (term : Term) : LoopEntry :=
  { first := s.pc + 1, last := s.pc + 1 + off, count := s.cntr, forever := term == .forever }

/-- The structural checks of R327, then the instruction (60_exceptions.md R406). -/
def checkedTransfer (s : State) (hasSlot : Bool) (v : Verdict) : Verdict :=
  match transferCheck s hasSlot with
  | some t => .raised .struct (.transfer t)
  | none => v

/-- `RTS` with an active lane (R332): an empty stack sets `PCSTK_UNF` and falls through. -/
def returnVerdict (s : State) : Verdict :=
  match s.pcStk with
  | [] => .wrote (markStack s 1) none
  | t :: rest => .wrote { s with pcStk := rest } (some t)

/-- `JUMP`, taken iff some lane is active (R323, R330). -/
def jumpVerdict (off : BitVec 16) (c : Cond) (s : State) : Verdict :=
  checkedTransfer s true
    (if anyLane (realMask s c) then .wrote s (some (branchTarget s off)) else .wrote s none)

/-- `CALL`, made iff some lane is active, also where the push overflows (R331). -/
def callVerdict (off : BitVec 16) (c : Cond) (s : State) : Verdict :=
  checkedTransfer s true
    (if anyLane (realMask s c) then
      .wrote (pushPc s (returnAddr s)) (some (branchTarget s off)) else .wrote s none)

/-- `RTS`, made iff some lane is active (R332). -/
def rtsVerdict (c : Cond) (s : State) : Verdict :=
  checkedTransfer s true
    (if anyLane (realMask s c) then returnVerdict s else .wrote s none)

/-- `JUMP L` (45_control_flow.md R330). -/
def execJump (off : BitVec 16) (c : Cond) (s : State) : Host.Outcome State Fault Refusal :=
  complete (.jump off c) s (jumpVerdict off c s)

/-- `CALL L` (R331). -/
def execCall (off : BitVec 16) (c : Cond) (s : State) : Host.Outcome State Fault Refusal :=
  complete (.call off c) s (callVerdict off c s)

/-- `RTS` (R332). -/
def execRts (c : Cond) (s : State) : Host.Outcome State Fault Refusal :=
  complete (.rts c) s (rtsVerdict c s)

/-- `DO L UNTIL term` (R333). -/
def execDoUntil (off : BitVec 16) (term : Term) (s : State) : Host.Outcome State Fault Refusal :=
  complete (.doUntil off term) s
    (checkedTransfer s false (.wrote (pushLoop s (loopEntry s off term)) none))

end Sys2Proof.Machine
end

