-- ==== Sys2Proof/Machine/Move.lean ====
section
/-! DEFINITION. Register moves and immediate loads (spec/44_move_load_store.md R270 to R285). -/

namespace Sys2Proof.Machine

/-- A move into per-lane state, in every active lane (44_move_load_store.md R270). -/
def moveVerdict (k : Mask) (s : State) (f : LaneId → LaneState → LaneState) : Verdict :=
  .wrote (mapMask s k f) none

/-- A write of a control register from a D-class register (R279): read-only destinations raise
`E_SHAPE` whatever the mask. -/
def writeCtlVerdict (ctl : Ctl) (rx : Reg) (c : Cond) (s : State) : Verdict :=
  let k := realMask s c
  if ctlReadOnly ctl then .raised .shape (.readOnly ctl)
  else
    match ctl with
    | .cntr =>
      .wrote (if anyLane k then { s with cntr := (firstValue s k rx).zeroExtend 16 } else s) none
    | .mstat =>
      .wrote (if anyLane k then { s with mstat := (firstValue s k rx).extractLsb' 0 1 } else s) none
    | _ => .wrote (mapMask s k fun _ ln => setBundle ctl (getR ln rx) ln) none

/-- A constant into a control register (R285), in all lanes for a flag bundle. -/
def loadCtlVerdict (ctl : Ctl) (imm : BitVec 16) (s : State) : Verdict :=
  if ctlReadOnly ctl then .raised .shape (.readOnly ctl)
  else
    match ctl with
    | .cntr => .wrote { s with cntr := imm } none
    | .mstat => .wrote { s with mstat := imm.extractLsb' 0 1 } none
    | _ => .wrote (mapMask s fullMask fun _ ln => setBundle ctl (imm.extractLsb' 0 12) ln) none

/-- `CP Rd, Rx` (44_move_load_store.md R272). -/
def execCpRR (rd rx : Reg) (c : Cond) (s : State) : Host.Outcome State Fault Refusal :=
  complete (.cpRR rd rx c) s (moveVerdict (realMask s c) s fun _ ln => setR ln rd (getR ln rx))

/-- `CP.C Rd, Rx` (R273). -/
def execCpC (rd rx : Reg) (c : Cond) (s : State) : Host.Outcome State Fault Refusal :=
  complete (.cpC rd rx c) s
    (moveVerdict (complexMask s c) s fun _ ln =>
      setR (setR ln rd (getR ln rx)) (oddOf rd) (getR ln (oddOf rx)))

/-- `CP ACCk.v, Rx` (R274). -/
def execCpVR (v : View) (acc : AccIx) (rx : Reg) (c : Cond) (s : State) :
    Host.Outcome State Fault Refusal :=
  complete (.cpVR v acc rx c) s
    (moveVerdict (realMask s c) s fun _ ln =>
      setAcc ln acc (writeView v (getAcc ln acc) (getR ln rx)))

/-- `CP Rd, ACCk.v` (R275). -/
def execCpRV (rd : Reg) (v : View) (acc : AccIx) (c : Cond) (s : State) :
    Host.Outcome State Fault Refusal :=
  complete (.cpRV rd v acc c) s
    (moveVerdict (realMask s c) s fun _ ln => setR ln rd (readView v (getAcc ln acc)))

/-- `CP ACCd, ACCs` (R276). -/
def execCpAA (accd accs : AccIx) (c : Cond) (s : State) : Host.Outcome State Fault Refusal :=
  complete (.cpAA accd accs c) s
    (moveVerdict (realMask s c) s fun _ ln => setAcc ln accd (getAcc ln accs))

/-- `CP G, Rx` (R277): lane `first(mask)` supplies the value. -/
def execCpGR (g : GClass) (k : GIx) (rx : Reg) (c : Cond) (s : State) :
    Host.Outcome State Fault Refusal :=
  complete (.cpGR g k rx c) s
    (.wrote (if anyLane (realMask s c) then
      writeG s g k (widenG g (firstValue s (realMask s c) rx)) else s) none)

/-- `CP Rd, G` (R278). -/
def execCpRG (rd : Reg) (g : GClass) (k : GIx) (c : Cond) (s : State) :
    Host.Outcome State Fault Refusal :=
  complete (.cpRG rd g k c) s
    (moveVerdict (realMask s c) s fun _ ln =>
      setR ln rd ((readG s g k).extractLsb' 0 12))

/-- `CP C, Rx` (R279). -/
def execCpCR (ctl : Ctl) (rx : Reg) (c : Cond) (s : State) : Host.Outcome State Fault Refusal :=
  complete (.cpCR ctl rx c) s (writeCtlVerdict ctl rx c s)

/-- `CP Rd, C` (R280). -/
def execCpRC (rd : Reg) (ctl : Ctl) (c : Cond) (s : State) : Host.Outcome State Fault Refusal :=
  complete (.cpRC rd ctl c) s
    (moveVerdict (realMask s c) s fun n ln => setR ln rd (readCtl s n ctl))

/-- `LD Rd, #12` (R283). -/
def execLdRI (rd : Reg) (imm : BitVec 12) (c : Cond) (s : State) :
    Host.Outcome State Fault Refusal :=
  complete (.ldRI rd imm c) s (moveVerdict (realMask s c) s fun _ ln => setR ln rd imm)

/-- `LD G, #16` (R284). -/
def execLdGI (g : GClass) (k : GIx) (imm : BitVec 16) (s : State) :
    Host.Outcome State Fault Refusal :=
  complete (.ldGI g k imm) s (.wrote (writeG s g k imm) none)

/-- `LD C, #16` (R285). -/
def execLdCI (ctl : Ctl) (imm : BitVec 16) (s : State) : Host.Outcome State Fault Refusal :=
  complete (.ldCI ctl imm) s (loadCtlVerdict ctl imm s)

end Sys2Proof.Machine
end

