-- ==== Sys2Proof/Machine/System.lean ====
section
/-! DEFINITION. The system instructions (spec/46_system.md R360 to R369). They have no condition. -/

namespace Sys2Proof.Machine

/-- `NOP` (46_system.md R362). -/
def execNop (s : State) : Host.Outcome State Fault Refusal :=
  complete .nop s (.wrote s none)

/-- `RESET` (R365). -/
def execReset (s : State) : Host.Outcome State Fault Refusal :=
  complete .reset s (.wrote (softReset s) none)

/-- `PUSH STS` (R363). -/
def execPushSts (s : State) : Host.Outcome State Fault Refusal :=
  complete .pushSts s (.wrote (pushStatus s) none)

/-- `POP STS` (R364). -/
def execPopSts (s : State) : Host.Outcome State Fault Refusal :=
  complete .popSts s (.wrote (popStatus s) none)

end Sys2Proof.Machine
end

