-- ==== Sys2Proof/Machine/Dispatch.lean ====
section
/-! DEFINITION. The dispatcher: one arm per instruction, each its own meaning. -/

namespace Sys2Proof.Machine

def exec (i : Instr) (s : State) : Host.Outcome State Fault Refusal :=
  match i with
  | .nop => Sys2Proof.Machine.execNop s
  | .reset => Sys2Proof.Machine.execReset s
  | .pushSts => Sys2Proof.Machine.execPushSts s
  | .popSts => Sys2Proof.Machine.execPopSts s
  | .jump off c => Sys2Proof.Machine.execJump off c s
  | .call off c => Sys2Proof.Machine.execCall off c s
  | .rts c => Sys2Proof.Machine.execRts c s
  | .doUntil off term => Sys2Proof.Machine.execDoUntil off term s
  | .addRRR rd rx ry c => Sys2Proof.Machine.execAddRRR rd rx ry c s
  | .addcRRR rd rx ry c => Sys2Proof.Machine.execAddcRRR rd rx ry c s
  | .subRRR rd rx ry c => Sys2Proof.Machine.execSubRRR rd rx ry c s
  | .subbRRR rd rx ry c => Sys2Proof.Machine.execSubbRRR rd rx ry c s
  | .andRRR rd rx ry c => Sys2Proof.Machine.execAndRRR rd rx ry c s
  | .orRRR rd rx ry c => Sys2Proof.Machine.execOrRRR rd rx ry c s
  | .xorRRR rd rx ry c => Sys2Proof.Machine.execXorRRR rd rx ry c s
  | .notRR rd rx c => Sys2Proof.Machine.execNotRR rd rx c s
  | .absRR rd rx c => Sys2Proof.Machine.execAbsRR rd rx c s
  | .negRR rd rx c => Sys2Proof.Machine.execNegRR rd rx c s
  | .cpRR rd rx c => Sys2Proof.Machine.execCpRR rd rx c s
  | .ashiftRRR rd rx ry c => Sys2Proof.Machine.execAshiftRRR rd rx ry c s
  | .lshiftRRR rd rx ry c => Sys2Proof.Machine.execLshiftRRR rd rx ry c s
  | .divsRRR rd rx ry c => Sys2Proof.Machine.execDivsRRR rd rx ry c s
  | .divqRRR rd rx ry c => Sys2Proof.Machine.execDivqRRR rd rx ry c s
  | .addRRI rd rx imm c => Sys2Proof.Machine.execAddRRI rd rx imm c s
  | .addcRRI rd rx imm c => Sys2Proof.Machine.execAddcRRI rd rx imm c s
  | .subRRI rd rx imm c => Sys2Proof.Machine.execSubRRI rd rx imm c s
  | .subbRRI rd rx imm c => Sys2Proof.Machine.execSubbRRI rd rx imm c s
  | .andRRI rd rx imm c => Sys2Proof.Machine.execAndRRI rd rx imm c s
  | .orRRI rd rx imm c => Sys2Proof.Machine.execOrRRI rd rx imm c s
  | .xorRRI rd rx imm c => Sys2Proof.Machine.execXorRRI rd rx imm c s
  | .ashiftRRI rd rx imm c => Sys2Proof.Machine.execAshiftRRI rd rx imm c s
  | .lshiftRRI rd rx imm c => Sys2Proof.Machine.execLshiftRRI rd rx imm c s
  | .addC rd rx ry c => Sys2Proof.Machine.execAddC rd rx ry c s
  | .subC rd rx ry c => Sys2Proof.Machine.execSubC rd rx ry c s
  | .conjC rd rx c => Sys2Proof.Machine.execConjC rd rx c s
  | .polarC rd rx c => Sys2Proof.Machine.execPolarC rd rx c s
  | .rectC rd rx c => Sys2Proof.Machine.execRectC rd rx c s
  | .cpC rd rx c => Sys2Proof.Machine.execCpC rd rx c s
  | .mpy opt acc rx ry c => Sys2Proof.Machine.execMpy opt acc rx ry c s
  | .mac opt acc rx ry c => Sys2Proof.Machine.execMac opt acc rx ry c s
  | .mas opt acc rx ry c => Sys2Proof.Machine.execMas opt acc rx ry c s
  | .mpyC conj opt acc rx ry c => Sys2Proof.Machine.execMpyC conj opt acc rx ry c s
  | .macC conj opt acc rx ry c => Sys2Proof.Machine.execMacC conj opt acc rx ry c s
  | .masC conj opt acc rx ry c => Sys2Proof.Machine.execMasC conj opt acc rx ry c s
  | .cpVR v acc rx c => Sys2Proof.Machine.execCpVR v acc rx c s
  | .cpRV rd v acc c => Sys2Proof.Machine.execCpRV rd v acc c s
  | .cpAA accd accs c => Sys2Proof.Machine.execCpAA accd accs c s
  | .cpGR g k rx c => Sys2Proof.Machine.execCpGR g k rx c s
  | .cpRG rd g k c => Sys2Proof.Machine.execCpRG rd g k c s
  | .cpCR ctl rx c => Sys2Proof.Machine.execCpCR ctl rx c s
  | .cpRC rd ctl c => Sys2Proof.Machine.execCpRC rd ctl c s
  | .ldRI rd imm c => Sys2Proof.Machine.execLdRI rd imm c s
  | .ldGI g k imm => Sys2Proof.Machine.execLdGI g k imm s
  | .ldCI ctl imm => Sys2Proof.Machine.execLdCI ctl imm s
  | .ldAbs r a => Sys2Proof.Machine.execLdAbs r a s
  | .stAbs r a => Sys2Proof.Machine.execStAbs r a s
  | .ldCAbs r a => Sys2Proof.Machine.execLdCAbs r a s
  | .stCAbs r a => Sys2Proof.Machine.execStCAbs r a s
  | .ldPostM r k m c => Sys2Proof.Machine.execLdPostM r k m c s
  | .stPostM r k m c => Sys2Proof.Machine.execStPostM r k m c s
  | .ldCPostM r k m c => Sys2Proof.Machine.execLdCPostM r k m c s
  | .stCPostM r k m c => Sys2Proof.Machine.execStCPostM r k m c s
  | .ldPreM r k m c => Sys2Proof.Machine.execLdPreM r k m c s
  | .stPreM r k m c => Sys2Proof.Machine.execStPreM r k m c s
  | .ldCPreM r k m c => Sys2Proof.Machine.execLdCPreM r k m c s
  | .stCPreM r k m c => Sys2Proof.Machine.execStCPreM r k m c s
  | .ldPostI r k imm c => Sys2Proof.Machine.execLdPostI r k imm c s
  | .stPostI r k imm c => Sys2Proof.Machine.execStPostI r k imm c s
  | .ldCPostI r k imm c => Sys2Proof.Machine.execLdCPostI r k imm c s
  | .stCPostI r k imm c => Sys2Proof.Machine.execStCPostI r k imm c s
  | .ldPreI r k imm c => Sys2Proof.Machine.execLdPreI r k imm c s
  | .stPreI r k imm c => Sys2Proof.Machine.execStPreI r k imm c s
  | .ldCPreI r k imm c => Sys2Proof.Machine.execLdCPreI r k imm c s
  | .stCPreI r k imm c => Sys2Proof.Machine.execStCPreI r k imm c s
  | .addLd rd rx ry lrd li lm c => Sys2Proof.Machine.execAddLd rd rx ry lrd li lm c s
  | .addcLd rd rx ry lrd li lm c => Sys2Proof.Machine.execAddcLd rd rx ry lrd li lm c s
  | .subLd rd rx ry lrd li lm c => Sys2Proof.Machine.execSubLd rd rx ry lrd li lm c s
  | .subbLd rd rx ry lrd li lm c => Sys2Proof.Machine.execSubbLd rd rx ry lrd li lm c s
  | .andLd rd rx ry lrd li lm c => Sys2Proof.Machine.execAndLd rd rx ry lrd li lm c s
  | .orLd rd rx ry lrd li lm c => Sys2Proof.Machine.execOrLd rd rx ry lrd li lm c s
  | .xorLd rd rx ry lrd li lm c => Sys2Proof.Machine.execXorLd rd rx ry lrd li lm c s
  | .mpyLd opt acc rx ry lrd li lm c => Sys2Proof.Machine.execMpyLd opt acc rx ry lrd li lm c s
  | .macLd opt acc rx ry lrd li lm c => Sys2Proof.Machine.execMacLd opt acc rx ry lrd li lm c s
  | .masLd opt acc rx ry lrd li lm c => Sys2Proof.Machine.execMasLd opt acc rx ry lrd li lm c s
  | .mpyLdLd opt acc rx ry l1rd l1i l1m l2rd l2i l2m c => Sys2Proof.Machine.execMpyLdLd opt acc rx ry l1rd l1i l1m l2rd l2i l2m c s
  | .macLdLd opt acc rx ry l1rd l1i l1m l2rd l2i l2m c => Sys2Proof.Machine.execMacLdLd opt acc rx ry l1rd l1i l1m l2rd l2i l2m c s
  | .masLdLd opt acc rx ry l1rd l1i l1m l2rd l2i l2m c => Sys2Proof.Machine.execMasLdLd opt acc rx ry l1rd l1i l1m l2rd l2i l2m c s
  | .ashiftSt rd rx ry srs si sm c => Sys2Proof.Machine.execAshiftSt rd rx ry srs si sm c s
  | .lshiftSt rd rx ry srs si sm c => Sys2Proof.Machine.execLshiftSt rd rx ry srs si sm c s

end Sys2Proof.Machine
end

