-- ==== Sys2Proof/Machine/Step.lean ====
section
/-! DEFINITION. One step transaction (spec/45_control_flow.md R340), and where the host places the next
instruction word. -/

namespace Sys2Proof.Machine

/-- `step()` (R340): a halted block does nothing; no word at `PC` ends the run; an illegal word is an
`E_SHAPE` no-op; a legal word runs its instruction rule. -/
def step (s : State) : Host.Outcome State Fault Refusal :=
  if s.halted then .next s
  else
    match imWord s s.pc with
    | none => .next (endOfRun s)
    | some w =>
      match decode w with
      | .error _ => .next (illegalWord s w)
      | .ok i => exec i s

/-- `s` with a table word of `nbits` bits at `PC` in program memory, and not halted, so that the next
step runs it; it stands for the host's `load_program` (60_exceptions.md R425, log 12). -/
def State.withFetchWord (s : State) (nbits w : Nat) : State :=
  { s with im := memPut s.im s.pc.toNat (BitVec.ofNat 32 (w % 2 ^ nbits)), halted := false }

end Sys2Proof.Machine
end

