-- ==== Sys2Proof/Machine/Encoder.lean ====
section
/-! DEFINITION. The encoder of the block (spec/30_encoding.md R105, R106, R150 to R158, R170 to R175;
47_multifunction.md R381, 60_exceptions.md R402, R405): from a resolved program list to instruction
words, listing lines, memory image and the encoder's own error tally. It reads no State. -/

namespace Sys2Proof.Machine

/-- Mnemonics (30_encoding.md R102), and any other name. -/
inductive Mnemonic where
  | nop | reset | push | pop | jump | call | rts | doLoop
  | add | addc | sub | subb | and | or | xor | not | abs | neg
  | addC | subC | conjC | polarC | rectC
  | mpy | mac | mas | mpyC | macC | masC
  | ashift | lshift | divs | divq
  | cp | cpC | ld | st | ldC | stC
  | unknown
  deriving DecidableEq, Repr

/-- Operand tokens as the front end delivers them (R105). `const` is an integer, or a label or data
symbol already resolved to one (R150). -/
inductive Token where
  | reg (r : Reg)
  | acc (k : AccIx)
  | accView (k : AccIx) (v : View)
  | g (cls : GClass) (k : GIx)
  | ctl (c : Ctl)
  | const (n : Int)
  | dmAbs (n : Int)
  | dmPostM (i m : GIx)
  | dmPreM (i m : GIx)
  | dmPostI (i : GIx) (n : Int)
  | dmPreI (i : GIx) (n : Int)
  | term (t : Term)
  | sts
  /-- a program-memory operand: no format has one (20_memory.md R71) -/
  | pm (n : Int)
  /-- any other token that is in no class of R105 -/
  | other (text : String)
  deriving DecidableEq, Repr

/-- One operation: mnemonic, operands, option token, conjugate flag (R150). -/
structure Operation where
  mnemonic : Mnemonic
  operands : List Token
  opt : Option MacOpt
  conj : Bool
  deriving DecidableEq, Repr

/-- What a record stands for (R150, R151, 60_exceptions.md R405). -/
inductive RecordBody where
  /-- comment, label, section, extern, global, var, equ: no word (R151) -/
  | pseudoOp
  /-- a record the resolution pass could not classify -/
  | unresolved
  /-- an operation with its 0 to 2 siblings -/
  | operation (head : Operation) (siblings : List Operation)
  deriving DecidableEq, Repr

/-- An instruction record (R150); `cond` is `none` where the line has no `IF` prefix, `formatId` is
`none` where the resolution pass has not set the format. -/
structure InstructionRecord where
  line : Nat
  addr : Addr
  body : RecordBody
  cond : Option Cond
  formatId : Option Nat
  deriving DecidableEq, Repr

/-- The offending token that an encoder error record names (R153, 60_exceptions.md R402). The rules
want one and leave its choice open: what is named for each cause is a DESIGN CHOICE (log 24). -/
inductive Offending where
  /-- a record the resolution pass could not classify -/
  | record
  | mnemonic (m : Mnemonic)
  | formatId (f : Nat)
  | operand (t : Token)
  | option (o : MacOpt)
  | missingOption
  | conjugate
  | condition (c : Cond)
  deriving DecidableEq, Repr

/-- Why a record is refused: the error class and the offending token. -/
structure Rejection where
  cls : ErrorClass
  token : Offending
  deriving DecidableEq, Repr

/-! ## Format lookup (R152 step 2) -/

/-- Coarse operand kinds, the part of the operand classes of R105 that format lookup looks at (log 10). -/
inductive Kind where
  | register | constant | memory | term | sts | unclassified
  deriving DecidableEq, Repr

/-- The coarse kind of a token. -/
def Token.kind : Token → Kind
  | .reg _ => .register
  | .acc _ => .register
  | .accView _ _ => .register
  | .g _ _ => .register
  | .ctl _ => .register
  | .const _ => .constant
  | .dmAbs _ => .memory
  | .dmPostM _ _ => .memory
  | .dmPreM _ _ => .memory
  | .dmPostI _ _ => .memory
  | .dmPreI _ _ => .memory
  | .term _ => .term
  | .sts => .sts
  | .pm _ => .unclassified
  | .other _ => .unclassified

/-- The rows of a mnemonic in the single-issue map (R146): coarse operand kinds, and the identifiers of
the formats of that shape. -/
def singleRows : Mnemonic → List (List Kind × List Nat)
  | .nop => [([], [0x01])]
  | .reset => [([], [0x02])]
  | .push => [([.sts], [0x03])]
  | .pop => [([.sts], [0x04])]
  | .jump => [([.constant], [0x08])]
  | .call => [([.constant], [0x09])]
  | .rts => [([], [0x0A])]
  | .doLoop => [([.constant, .term], [0x0B])]
  | .add => [([.register, .register, .register], [0x10]), ([.register, .register, .constant], [0x20])]
  | .addc => [([.register, .register, .register], [0x11]), ([.register, .register, .constant], [0x21])]
  | .sub => [([.register, .register, .register], [0x12]), ([.register, .register, .constant], [0x22])]
  | .subb => [([.register, .register, .register], [0x13]), ([.register, .register, .constant], [0x23])]
  | .and => [([.register, .register, .register], [0x14]), ([.register, .register, .constant], [0x24])]
  | .or => [([.register, .register, .register], [0x15]), ([.register, .register, .constant], [0x25])]
  | .xor => [([.register, .register, .register], [0x16]), ([.register, .register, .constant], [0x26])]
  | .not => [([.register, .register], [0x18])]
  | .abs => [([.register, .register], [0x19])]
  | .neg => [([.register, .register], [0x1A])]
  | .ashift => [([.register, .register, .register], [0x1C]), ([.register, .register, .constant], [0x2C])]
  | .lshift => [([.register, .register, .register], [0x1D]), ([.register, .register, .constant], [0x2D])]
  | .divs => [([.register, .register, .register], [0x1E])]
  | .divq => [([.register, .register, .register], [0x1F])]
  | .addC => [([.register, .register, .register], [0x30])]
  | .subC => [([.register, .register, .register], [0x32])]
  | .conjC => [([.register, .register], [0x38])]
  | .polarC => [([.register, .register], [0x39])]
  | .rectC => [([.register, .register], [0x3A])]
  | .cpC => [([.register, .register], [0x3B])]
  | .mpy => [([.register, .register, .register], [0x40])]
  | .mac => [([.register, .register, .register], [0x41])]
  | .mas => [([.register, .register, .register], [0x42])]
  | .mpyC => [([.register, .register, .register], [0x44])]
  | .macC => [([.register, .register, .register], [0x45])]
  | .masC => [([.register, .register, .register], [0x46])]
  | .cp => [([.register, .register], [0x1B, 0x48, 0x49, 0x4A, 0x4C, 0x4D, 0x4E, 0x4F])]
  | .ld => [([.register, .constant], [0x50, 0x51, 0x52]), ([.register, .memory], [0x54, 0x58, 0x5C, 0x60, 0x64])]
  | .st => [([.memory, .register], [0x55, 0x59, 0x5D, 0x61, 0x65])]
  | .ldC => [([.register, .memory], [0x56, 0x5A, 0x5E, 0x62, 0x66])]
  | .stC => [([.memory, .register], [0x57, 0x5B, 0x5F, 0x63, 0x67])]
  | .unknown => []

/-- The unit of a sub-operation of a bundle. The complex forms and `NOT ABS NEG` belong to a unit, so
that R381 can refuse them as operand-shape errors. -/
inductive Slot where
  | alu | mac | shift | load | store
  deriving DecidableEq, Repr

/-- The unit of a mnemonic; control transfers, moves, divide steps and system instructions have none
(47_multifunction.md R381). -/
def slotOf : Mnemonic → Option Slot
  | .add | .addc | .sub | .subb | .and | .or | .xor | .not | .abs | .neg => some .alu
  | .addC | .subC | .conjC | .polarC | .rectC => some .alu
  | .mpy | .mac | .mas | .mpyC | .macC | .masC => some .mac
  | .ashift | .lshift => some .shift
  | .ld | .ldC => some .load
  | .st | .stC => some .store
  | .nop | .reset | .push | .pop | .jump | .call | .rts | .doLoop => none
  | .divs | .divq | .cp | .cpC | .unknown => none

/-- The identifiers of the formats of a bundle shape (R104, R147); no other shape has a row (R173). -/
def bundleRows (h : Mnemonic) (sibs : List Mnemonic) : List Nat :=
  match slotOf h, sibs.map slotOf with
  | some .alu, [some .load] => [0x80, 0x81, 0x82, 0x83, 0x84, 0x85, 0x86]
  | some .mac, [some .load] => [0x90, 0x91, 0x92]
  | some .mac, [some .load, some .load] => [0xA0, 0xA1, 0xA2]
  | some .shift, [some .store] => [0xB0, 0xB1]
  | _, _ => []

/-- Tokens of no class of R105 in a record; a record that has one has no row (20_memory.md R71). -/
def unclassifiedTokens (os : List Operation) : List Token :=
  os.flatMap fun o => o.operands.filter fun t => t.kind == .unclassified

/-- The formats whose key a record has: the bundle shape, or mnemonic and operand kinds (R106). -/
def formatsOf (h : Operation) (sibs : List Operation) : List Nat :=
  if (unclassifiedTokens (h :: sibs)).isEmpty then
    match sibs with
    | [] =>
      ((singleRows h.mnemonic).filter fun r => r.1 == h.operands.map Token.kind).flatMap fun r => r.2
    | _ :: _ => bundleRows h.mnemonic (sibs.map Operation.mnemonic)
  else []

/-- Format lookup (R152 step 2): no row, or a format already set that is not among the rows of the key
(R106, R150), is an encoding error whatever else is wrong with the record. -/
def lookupError (fid : Option Nat) (h : Operation) (sibs : List Operation) : Option Rejection :=
  match formatsOf h sibs, fid with
  | [], _ =>
    match unclassifiedTokens (h :: sibs) with
    | t :: _ => some ⟨.enc, .operand t⟩
    | [] => some ⟨.enc, .mnemonic h.mnemonic⟩
  | rows, some f => if rows.contains f then none else some ⟨.enc, .formatId f⟩
  | _, none => none

/-! ## Operand checks (R152 step 3)

These run only where the lookup has found a row, so whatever fails here is an operand-shape error. -/

/-- Result of checking a record against its format: the instruction, or the rejection. -/
abbrev Selected := Except Rejection Instr

/-- An operand-shape error at a token. -/
def wrongToken (t : Token) : Selected := .error ⟨.shape, .operand t⟩

/-- The first token that is not of the class its position asks for. -/
def firstWrong : List (Token → Bool) → List Token → Option Token
  | p :: ps, t :: ts => if p t then firstWrong ps ts else some t
  | _, _ => none

/-- An operand-shape error at the first operand of the wrong class. -/
def wrongOperand (m : Mnemonic) (classes : List (Token → Bool)) (ops : List Token) : Selected :=
  match firstWrong classes ops with
  | some t => wrongToken t
  | none => .error ⟨.shape, .mnemonic m⟩

/-- Class `R`. -/
def Token.isReg : Token → Bool
  | .reg _ => true
  | _ => false

/-- Class `A`. -/
def Token.isAcc : Token → Bool
  | .acc _ => true
  | _ => false

/-- Class `@post_m`, the only addressing mode of a bundle (47_multifunction.md R381). -/
def Token.isPostM : Token → Bool
  | .dmPostM _ _ => true
  | _ => false

/-- Some `DM(..)` operand. -/
def Token.isMemory (t : Token) : Bool := t.kind == .memory

/-- `#s8` (R105, R116): outside the range an operand-shape error at the token that holds it. -/
def immS8 (t : Token) (n : Int) (k : BitVec 8 → Selected) : Selected :=
  if -128 ≤ n ∧ n ≤ 127 then k (trunc 8 n) else wrongToken t

/-- `#12` (R105, R116). -/
def imm12 (n : Int) (k : BitVec 12 → Selected) : Selected :=
  if -2048 ≤ n ∧ n ≤ 4095 then k (trunc 12 n) else wrongToken (.const n)

/-- `#16` (R105, R116). -/
def imm16 (n : Int) (k : BitVec 16 → Selected) : Selected :=
  if -32768 ≤ n ∧ n ≤ 65535 then k (trunc 16 n) else wrongToken (.const n)

/-- A program or data address, 0 .. 65535 (R105). -/
def addr16 (t : Token) (n : Int) (k : Addr → Selected) : Selected :=
  if 0 ≤ n ∧ n ≤ 65535 then k (trunc 16 n) else wrongToken t

/-- Two-source row pair: register form or immediate form by the third operand (R106). -/
def selectRRY (m : Mnemonic) (ops : List Token) (rrr : Reg → Reg → Reg → Instr)
    (rri : Reg → Reg → BitVec 8 → Instr) : Selected :=
  match ops with
  | [.reg rd, .reg rx, .reg ry] => .ok (rrr rd rx ry)
  | [.reg rd, .reg rx, .const n] => immS8 (.const n) n fun b => .ok (rri rd rx b)
  | _ => wrongOperand m [Token.isReg, Token.isReg, Token.isReg] ops

/-- Three-register row. -/
def selectRRR (m : Mnemonic) (ops : List Token) (rrr : Reg → Reg → Reg → Instr) : Selected :=
  match ops with
  | [.reg rd, .reg rx, .reg ry] => .ok (rrr rd rx ry)
  | _ => wrongOperand m [Token.isReg, Token.isReg, Token.isReg] ops

/-- Two-register row. -/
def selectRR (m : Mnemonic) (ops : List Token) (rr : Reg → Reg → Instr) : Selected :=
  match ops with
  | [.reg rd, .reg rx] => .ok (rr rd rx)
  | _ => wrongOperand m [Token.isReg, Token.isReg] ops

/-- Multiplier row: the option token is required (R114, 42_mac.md R232). -/
def selectMac (m : Mnemonic) (ops : List Token) (opt : Option MacOpt)
    (mk : MacOpt → AccIx → Reg → Reg → Instr) : Selected :=
  match ops with
  | [.acc k, .reg rx, .reg ry] =>
    match opt with
    | some o => .ok (mk o k rx ry)
    | none => .error ⟨.shape, .missingOption⟩
  | _ => wrongOperand m [Token.isAcc, Token.isReg, Token.isReg] ops

/-- Rows of a memory mnemonic by addressing mode (44_move_load_store.md R287). -/
def selectMem (m : Token) (r : Reg) (c : Cond) (abs : Reg → BitVec 16 → Instr)
    (postM preM : Reg → GIx → GIx → Cond → Instr)
    (postI preI : Reg → GIx → BitVec 8 → Cond → Instr) : Selected :=
  match m with
  | .dmAbs n => addr16 m n fun a => .ok (abs r a)
  | .dmPostM i j => .ok (postM r i j c)
  | .dmPreM i j => .ok (preM r i j c)
  | .dmPostI i n => immS8 m n fun b => .ok (postI r i b c)
  | .dmPreI i n => immS8 m n fun b => .ok (preI r i b c)
  | _ => wrongToken m

/-- `CP` by the classes of its two operands (R106); a read-only destination is refused (R152). -/
def selectCp (ops : List Token) (c : Cond) : Selected :=
  match ops with
  | [.reg rd, .reg rx] => .ok (.cpRR rd rx c)
  | [.accView k v, .reg rx] => .ok (.cpVR v k rx c)
  | [.reg rd, .accView k v] => .ok (.cpRV rd v k c)
  | [.acc d, .acc x] => .ok (.cpAA d x c)
  | [.g cls k, .reg rx] => .ok (.cpGR cls k rx c)
  | [.reg rd, .g cls k] => .ok (.cpRG rd cls k c)
  | [.ctl x, .reg rx] => if ctlReadOnly x then wrongToken (.ctl x) else .ok (.cpCR x rx c)
  | [.reg rd, .ctl x] => .ok (.cpRC rd x c)
  | _ => wrongOperand .cp [fun _ => false] ops

/-- `LD` by its second operand, then its first (R106). -/
def selectLd (ops : List Token) (c : Cond) : Selected :=
  match ops with
  | [.reg rd, .const n] => imm12 n fun b => .ok (.ldRI rd b c)
  | [.g cls k, .const n] => imm16 n fun b => .ok (.ldGI cls k b)
  | [.ctl x, .const n] =>
    if ctlReadOnly x then wrongToken (.ctl x) else imm16 n fun b => .ok (.ldCI x b)
  | [.reg rd, m] =>
    selectMem m rd c .ldAbs .ldPostM .ldPreM .ldPostI .ldPreI
  | _ => wrongOperand .ld [fun _ => false] ops

/-- `LD.C` (R106). -/
def selectLdC (ops : List Token) (c : Cond) : Selected :=
  match ops with
  | [.reg rd, m] =>
    selectMem m rd c .ldCAbs .ldCPostM .ldCPreM .ldCPostI .ldCPreI
  | _ => wrongOperand .ldC [Token.isReg] ops

/-- `ST` and `ST.C`, memory operand first (R171). -/
def selectSt (cplx : Bool) (ops : List Token) (c : Cond) : Selected :=
  match ops with
  | [m, .reg r] =>
    if cplx then selectMem m r c .stCAbs .stCPostM .stCPreM .stCPostI .stCPreI
    else selectMem m r c .stAbs .stPostM .stPreM .stPostI .stPreI
  | _ => wrongOperand (if cplx then .stC else .st) [Token.isMemory, Token.isReg] ops

/-- Branch rows: the offset is `target - current address` (R117). -/
def selectBranch (m : Mnemonic) (a : Addr) (ops : List Token) (mk : BitVec 16 → Instr) : Selected :=
  match ops with
  | [.const n] => addr16 (.const n) n fun t => .ok (mk (t - a))
  | _ => wrongOperand m [fun _ => false] ops

/-- `DO`: the offset is the distance from the loop start (R118). -/
def selectDo (a : Addr) (ops : List Token) : Selected :=
  match ops with
  | [.const n, .term t] => addr16 (.const n) n fun e => .ok (.doUntil (e - (a + 1)) t)
  | _ => wrongOperand .doLoop [fun _ => false] ops

/-- Rows without operands. -/
def selectNone (m : Mnemonic) (ops : List Token) (i : Instr) : Selected :=
  match ops with
  | [] => .ok i
  | _ => wrongOperand m [fun _ => false] ops

/-- Rows with the keyword `STS`. -/
def selectSts (m : Mnemonic) (ops : List Token) (i : Instr) : Selected :=
  match ops with
  | [.sts] => .ok i
  | _ => wrongOperand m [fun _ => false] ops

/-- Which mnemonics take an option token (R114). -/
def takesOption : Mnemonic → Bool
  | .mpy | .mac | .mas | .mpyC | .macC | .masC => true
  | _ => false

/-- Which mnemonics take the conjugate mark (R114). -/
def takesConj : Mnemonic → Bool
  | .mpyC | .macC | .masC => true
  | _ => false

/-- An option or `*` on an instruction that takes none (60_exceptions.md R405). -/
def strayToken (o : Operation) : Option Offending :=
  match o.opt with
  | some x => if takesOption o.mnemonic then strayConj o else some (.option x)
  | none => strayConj o
where
  /-- A `*` on an instruction that takes none. -/
  strayConj (o : Operation) : Option Offending :=
    if o.conj && !takesConj o.mnemonic then some .conjugate else none

/-- The single-issue row of an operation at address `a` under condition `c` (R106, R146). -/
def selectSingle (a : Addr) (c : Cond) (o : Operation) : Selected :=
  let ops := o.operands
  match o.mnemonic with
  | .nop => selectNone .nop ops .nop
  | .reset => selectNone .reset ops .reset
  | .push => selectSts .push ops .pushSts
  | .pop => selectSts .pop ops .popSts
  | .jump => selectBranch .jump a ops fun off => .jump off c
  | .call => selectBranch .call a ops fun off => .call off c
  | .rts => selectNone .rts ops (.rts c)
  | .doLoop => selectDo a ops
  | .add => selectRRY .add ops (fun rd rx ry => .addRRR rd rx ry c) (fun rd rx b => .addRRI rd rx b c)
  | .addc => selectRRY .addc ops (fun rd rx ry => .addcRRR rd rx ry c) (fun rd rx b => .addcRRI rd rx b c)
  | .sub => selectRRY .sub ops (fun rd rx ry => .subRRR rd rx ry c) (fun rd rx b => .subRRI rd rx b c)
  | .subb => selectRRY .subb ops (fun rd rx ry => .subbRRR rd rx ry c) (fun rd rx b => .subbRRI rd rx b c)
  | .and => selectRRY .and ops (fun rd rx ry => .andRRR rd rx ry c) (fun rd rx b => .andRRI rd rx b c)
  | .or => selectRRY .or ops (fun rd rx ry => .orRRR rd rx ry c) (fun rd rx b => .orRRI rd rx b c)
  | .xor => selectRRY .xor ops (fun rd rx ry => .xorRRR rd rx ry c) (fun rd rx b => .xorRRI rd rx b c)
  | .ashift => selectRRY .ashift ops (fun rd rx ry => .ashiftRRR rd rx ry c) (fun rd rx b => .ashiftRRI rd rx b c)
  | .lshift => selectRRY .lshift ops (fun rd rx ry => .lshiftRRR rd rx ry c) (fun rd rx b => .lshiftRRI rd rx b c)
  | .divs => selectRRR .divs ops fun rd rx ry => .divsRRR rd rx ry c
  | .divq => selectRRR .divq ops fun rd rx ry => .divqRRR rd rx ry c
  | .not => selectRR .not ops fun rd rx => .notRR rd rx c
  | .abs => selectRR .abs ops fun rd rx => .absRR rd rx c
  | .neg => selectRR .neg ops fun rd rx => .negRR rd rx c
  | .addC => selectRRR .addC ops fun rd rx ry => .addC rd rx ry c
  | .subC => selectRRR .subC ops fun rd rx ry => .subC rd rx ry c
  | .conjC => selectRR .conjC ops fun rd rx => .conjC rd rx c
  | .polarC => selectRR .polarC ops fun rd rx => .polarC rd rx c
  | .rectC => selectRR .rectC ops fun rd rx => .rectC rd rx c
  | .cpC => selectRR .cpC ops fun rd rx => .cpC rd rx c
  | .mpy => selectMac .mpy ops o.opt fun p k rx ry => .mpy p k rx ry c
  | .mac => selectMac .mac ops o.opt fun p k rx ry => .mac p k rx ry c
  | .mas => selectMac .mas ops o.opt fun p k rx ry => .mas p k rx ry c
  | .mpyC => selectMac .mpyC ops o.opt fun p k rx ry => .mpyC o.conj p k rx ry c
  | .macC => selectMac .macC ops o.opt fun p k rx ry => .macC o.conj p k rx ry c
  | .masC => selectMac .masC ops o.opt fun p k rx ry => .masC o.conj p k rx ry c
  | .cp => selectCp ops c
  | .ld => selectLd ops c
  | .ldC => selectLdC ops c
  | .st => selectSt false ops c
  | .stC => selectSt true ops c
  | .unknown => .error ⟨.enc, .mnemonic .unknown⟩

/-- A register a short field can name, `R0`..`R7` (47_multifunction.md R381). -/
def shortReg (r : Reg) (k : Reg8 → Selected) : Selected :=
  if h : r.val < 8 then k ⟨r.val, h⟩ else wrongToken (.reg r)

/-- An index in 0..3 (R381); outside it an error at the token that holds it. -/
def lowIndex (t : Token) (i : GIx) (k : Ix4 → Selected) : Selected :=
  if h : i.val < 4 then k ⟨i.val, h⟩ else wrongToken t

/-- An index in 4..7, stored minus 4 (R381). -/
def highIndex (t : Token) (i : GIx) (k : Ix4 → Selected) : Selected :=
  if 4 ≤ i.val then k ⟨i.val - 4, by omega⟩ else wrongToken t

/-- The operands of a bundled load (R381). -/
def loadSlot (o : Operation) (high : Bool) (k : Reg8 → Ix4 → Ix4 → Selected) : Selected :=
  match o.operands with
  | [.reg r, .dmPostM i m] =>
    let t := Token.dmPostM i m
    shortReg r fun r8 =>
      if high then highIndex t i fun i4 => highIndex t m fun m4 => k r8 i4 m4
      else lowIndex t i fun i4 => lowIndex t m fun m4 => k r8 i4 m4
  | ops => wrongOperand .ld [Token.isReg, Token.isPostM] ops

/-- The operands of a bundled store (R381). -/
def storeSlot (o : Operation) (k : Reg8 → Ix4 → Ix4 → Selected) : Selected :=
  match o.operands with
  | [.dmPostM i m, .reg r] =>
    let t := Token.dmPostM i m
    shortReg r fun r8 => lowIndex t i fun i4 => lowIndex t m fun m4 => k r8 i4 m4
  | ops => wrongOperand .st [Token.isPostM, Token.isReg] ops

/-- The row of `ALU || LD`, then the check of identical destinations (R383, R384). -/
def selectAluLd (h l : Operation)
    (mk : Reg → Reg → Reg → Reg8 → Ix4 → Ix4 → Instr) : Selected :=
  match h.operands with
  | [.reg rd, .reg rx, .reg ry] =>
    loadSlot l false fun r i m =>
      if rd = reg8 r then .error ⟨.struct, .operand (.reg rd)⟩ else .ok (mk rd rx ry r i m)
  | ops => wrongOperand h.mnemonic [Token.isReg, Token.isReg, Token.isReg] ops

/-- The row of `MAC || LD` (R385). -/
def selectMacLd (h l : Operation)
    (mk : MacOpt → AccIx → Reg → Reg → Reg8 → Ix4 → Ix4 → Instr) : Selected :=
  match h.operands with
  | [.acc k, .reg rx, .reg ry] =>
    match h.opt with
    | some o => loadSlot l false fun r i m => .ok (mk o k rx ry r i m)
    | none => .error ⟨.shape, .missingOption⟩
  | ops => wrongOperand h.mnemonic [Token.isAcc, Token.isReg, Token.isReg] ops

/-- The 1-bit option of the 3-way bundle; other options do not fit (R381). -/
def shortOption (o : Option MacOpt) (k : MacOpt1 → Selected) : Selected :=
  match o with
  | some .ss => k .ss
  | some .rnd => k .rnd
  | some x => .error ⟨.shape, .option x⟩
  | none => .error ⟨.shape, .missingOption⟩

/-- The row of `MAC || LD || LD` (R383, R386). -/
def selectMacLdLd (h l1 l2 : Operation)
    (mk : MacOpt1 → Acc4 → Reg8 → Reg8 → Reg8 → Ix4 → Ix4 → Reg8 → Ix4 → Ix4 → Instr) :
    Selected :=
  match h.operands with
  | [.acc k, .reg rx, .reg ry] =>
    shortOption h.opt fun o => lowIndex (.acc k) k fun k4 => shortReg rx fun x => shortReg ry fun y =>
      loadSlot l1 false fun ra i1 m1 => loadSlot l2 true fun rb i2 m2 =>
        if ra = rb then .error ⟨.struct, .operand (.reg (reg8 rb))⟩
        else .ok (mk o k4 x y ra i1 m1 rb i2 m2)
  | ops => wrongOperand h.mnemonic [Token.isAcc, Token.isReg, Token.isReg] ops

/-- The row of `SHIFT || ST` (R387). -/
def selectShiftSt (h l : Operation)
    (mk : Reg → Reg → Reg → Reg8 → Ix4 → Ix4 → Instr) : Selected :=
  match h.operands with
  | [.reg rd, .reg rx, .reg ry] => storeSlot l fun r i m => .ok (mk rd rx ry r i m)
  | ops => wrongOperand h.mnemonic [Token.isReg, Token.isReg, Token.isReg] ops

/-- A sub-operation outside the limits of R381 in a bundle shape that has rows: an operand-shape error at
the `.C` load or store, else at the head. -/
def wrongSlot (h : Operation) (sibs : List Operation) : Selected :=
  match sibs.find? fun l => l.mnemonic == .ldC || l.mnemonic == .stC with
  | some l => .error ⟨.shape, .mnemonic l.mnemonic⟩
  | none => .error ⟨.shape, .mnemonic h.mnemonic⟩

/-- The bundle row by head and siblings (R106, R147), for a shape that the lookup has found. -/
def selectBundle (c : Cond) (h : Operation) (sibs : List Operation) : Selected :=
  match sibs with
  | [l] =>
    match h.mnemonic, l.mnemonic with
    | .add, .ld => selectAluLd h l fun rd rx ry r i m => .addLd rd rx ry r i m c
    | .addc, .ld => selectAluLd h l fun rd rx ry r i m => .addcLd rd rx ry r i m c
    | .sub, .ld => selectAluLd h l fun rd rx ry r i m => .subLd rd rx ry r i m c
    | .subb, .ld => selectAluLd h l fun rd rx ry r i m => .subbLd rd rx ry r i m c
    | .and, .ld => selectAluLd h l fun rd rx ry r i m => .andLd rd rx ry r i m c
    | .or, .ld => selectAluLd h l fun rd rx ry r i m => .orLd rd rx ry r i m c
    | .xor, .ld => selectAluLd h l fun rd rx ry r i m => .xorLd rd rx ry r i m c
    | .mpy, .ld => selectMacLd h l fun o k rx ry r i m => .mpyLd o k rx ry r i m c
    | .mac, .ld => selectMacLd h l fun o k rx ry r i m => .macLd o k rx ry r i m c
    | .mas, .ld => selectMacLd h l fun o k rx ry r i m => .masLd o k rx ry r i m c
    | .ashift, .st => selectShiftSt h l fun rd rx ry r i m => .ashiftSt rd rx ry r i m c
    | .lshift, .st => selectShiftSt h l fun rd rx ry r i m => .lshiftSt rd rx ry r i m c
    | _, _ => wrongSlot h sibs
  | [l1, l2] =>
    match h.mnemonic, l1.mnemonic, l2.mnemonic with
    | .mpy, .ld, .ld => selectMacLdLd h l1 l2 fun o k x y ra i1 m1 rb i2 m2 =>
        .mpyLdLd o k x y ra i1 m1 rb i2 m2 c
    | .mac, .ld, .ld => selectMacLdLd h l1 l2 fun o k x y ra i1 m1 rb i2 m2 =>
        .macLdLd o k x y ra i1 m1 rb i2 m2 c
    | .mas, .ld, .ld => selectMacLdLd h l1 l2 fun o k x y ra i1 m1 rb i2 m2 =>
        .masLdLd o k x y ra i1 m1 rb i2 m2 c
    | _, _, _ => wrongSlot h sibs
  | _ => wrongSlot h sibs

/-- Which formats have a `cond` field (R120 to R145). -/
def hasCond : Instr → Bool
  | .nop => false
  | .reset => false
  | .pushSts => false
  | .popSts => false
  | .jump _ _ => true
  | .call _ _ => true
  | .rts _ => true
  | .doUntil _ _ => false
  | .addRRR _ _ _ _ => true
  | .addcRRR _ _ _ _ => true
  | .subRRR _ _ _ _ => true
  | .subbRRR _ _ _ _ => true
  | .andRRR _ _ _ _ => true
  | .orRRR _ _ _ _ => true
  | .xorRRR _ _ _ _ => true
  | .notRR _ _ _ => true
  | .absRR _ _ _ => true
  | .negRR _ _ _ => true
  | .cpRR _ _ _ => true
  | .ashiftRRR _ _ _ _ => true
  | .lshiftRRR _ _ _ _ => true
  | .divsRRR _ _ _ _ => true
  | .divqRRR _ _ _ _ => true
  | .addRRI _ _ _ _ => true
  | .addcRRI _ _ _ _ => true
  | .subRRI _ _ _ _ => true
  | .subbRRI _ _ _ _ => true
  | .andRRI _ _ _ _ => true
  | .orRRI _ _ _ _ => true
  | .xorRRI _ _ _ _ => true
  | .ashiftRRI _ _ _ _ => true
  | .lshiftRRI _ _ _ _ => true
  | .addC _ _ _ _ => true
  | .subC _ _ _ _ => true
  | .conjC _ _ _ => true
  | .polarC _ _ _ => true
  | .rectC _ _ _ => true
  | .cpC _ _ _ => true
  | .mpy _ _ _ _ _ => true
  | .mac _ _ _ _ _ => true
  | .mas _ _ _ _ _ => true
  | .mpyC _ _ _ _ _ _ => true
  | .macC _ _ _ _ _ _ => true
  | .masC _ _ _ _ _ _ => true
  | .cpVR _ _ _ _ => true
  | .cpRV _ _ _ _ => true
  | .cpAA _ _ _ => true
  | .cpGR _ _ _ _ => true
  | .cpRG _ _ _ _ => true
  | .cpCR _ _ _ => true
  | .cpRC _ _ _ => true
  | .ldRI _ _ _ => true
  | .ldGI _ _ _ => false
  | .ldCI _ _ => false
  | .ldAbs _ _ => false
  | .stAbs _ _ => false
  | .ldCAbs _ _ => false
  | .stCAbs _ _ => false
  | .ldPostM _ _ _ _ => true
  | .stPostM _ _ _ _ => true
  | .ldCPostM _ _ _ _ => true
  | .stCPostM _ _ _ _ => true
  | .ldPreM _ _ _ _ => true
  | .stPreM _ _ _ _ => true
  | .ldCPreM _ _ _ _ => true
  | .stCPreM _ _ _ _ => true
  | .ldPostI _ _ _ _ => true
  | .stPostI _ _ _ _ => true
  | .ldCPostI _ _ _ _ => true
  | .stCPostI _ _ _ _ => true
  | .ldPreI _ _ _ _ => true
  | .stPreI _ _ _ _ => true
  | .ldCPreI _ _ _ _ => true
  | .stCPreI _ _ _ _ => true
  | .addLd _ _ _ _ _ _ _ => true
  | .addcLd _ _ _ _ _ _ _ => true
  | .subLd _ _ _ _ _ _ _ => true
  | .subbLd _ _ _ _ _ _ _ => true
  | .andLd _ _ _ _ _ _ _ => true
  | .orLd _ _ _ _ _ _ _ => true
  | .xorLd _ _ _ _ _ _ _ => true
  | .mpyLd _ _ _ _ _ _ _ _ => true
  | .macLd _ _ _ _ _ _ _ _ => true
  | .masLd _ _ _ _ _ _ _ _ => true
  | .mpyLdLd _ _ _ _ _ _ _ _ _ _ _ => true
  | .macLdLd _ _ _ _ _ _ _ _ _ _ _ => true
  | .masLdLd _ _ _ _ _ _ _ _ _ _ _ => true
  | .ashiftSt _ _ _ _ _ _ _ => true
  | .lshiftSt _ _ _ _ _ _ _ => true

/-- An odd register or accumulator. -/
def Token.isOdd : Token → Bool
  | .reg r => !evenReg r
  | .acc k => !evenAcc k
  | _ => false

/-- The last checks of R152 step 3: even registers of complex formats, and no condition on a format
without a `cond` field (R172). -/
def checkOperands (c : Cond) (h : Operation) (x : Selected) : Selected :=
  match x with
  | .ok i =>
    if !i.wf then wrongOperand h.mnemonic (h.operands.map fun _ t => !t.isOdd) h.operands
    else if c ≠ .always ∧ hasCond i = false then .error ⟨.shape, .condition c⟩
    else .ok i
  | .error e => .error e

/-- A format that was set and that is not the one the operands select: an encoding error (log 10). -/
def checkFormat (fid : Option Nat) (x : Selected) : Selected :=
  match x, fid with
  | .ok i, some f => if (formatOf i).id = f then .ok i else .error ⟨.enc, .formatId f⟩
  | x, _ => x

/-- Step 3 of R152 for a record whose lookup has found a row. -/
def selectRow (a : Addr) (c : Cond) (h : Operation) (sibs : List Operation) : Selected :=
  match (h :: sibs).findSome? strayToken with
  | some x => .error ⟨.shape, x⟩
  | none => checkOperands c h (if sibs.isEmpty then selectSingle a c h else selectBundle c h sibs)

/-- The instruction of a record, or its encoder error (R152 steps 1 to 3): the lookup comes before every
operand check; no prefix means TRUE. -/
def selectRecord (a : Addr) (cond : Option Cond) (fid : Option Nat) (h : Operation)
    (sibs : List Operation) : Selected :=
  match lookupError fid h sibs with
  | some e => .error e
  | none => checkFormat fid (selectRow a (cond.getD .always) h sibs)

/-! ## Outputs -/

/-- The word emitted for a record that fails (R153). -/
def errorWord : IWord := 0xFFFFFFFF

/-- Memory-reference kind of a listing line (R157): `---`, `DMR`, `DMW`. -/
inductive MemRef where
  | none | read | write
  deriving DecidableEq, Repr

/-- The kind of an instruction's word (R157). -/
def memRefOf (i : Instr) : MemRef :=
  if (wordClass i).load then .read else if (wordClass i).store then .write else .none

/-- A relocation triple (R154): value, bits emitted before the field, width. -/
structure Reloc where
  value : Addr
  position : Nat
  width : Nat
  deriving DecidableEq, Repr

/-- The relocatable field of the instruction at `a` (R154). -/
def relocOf (a : Addr) : Instr → Option Reloc
  | .nop => none
  | .reset => none
  | .pushSts => none
  | .popSts => none
  | .jump off _ => some ⟨a + off, 12, 16⟩
  | .call off _ => some ⟨a + off, 12, 16⟩
  | .rts _ => none
  | .doUntil off _ => some ⟨a + 1 + off, 12, 16⟩
  | .addRRR _ _ _ _ => none
  | .addcRRR _ _ _ _ => none
  | .subRRR _ _ _ _ => none
  | .subbRRR _ _ _ _ => none
  | .andRRR _ _ _ _ => none
  | .orRRR _ _ _ _ => none
  | .xorRRR _ _ _ _ => none
  | .notRR _ _ _ => none
  | .absRR _ _ _ => none
  | .negRR _ _ _ => none
  | .cpRR _ _ _ => none
  | .ashiftRRR _ _ _ _ => none
  | .lshiftRRR _ _ _ _ => none
  | .divsRRR _ _ _ _ => none
  | .divqRRR _ _ _ _ => none
  | .addRRI _ _ _ _ => none
  | .addcRRI _ _ _ _ => none
  | .subRRI _ _ _ _ => none
  | .subbRRI _ _ _ _ => none
  | .andRRI _ _ _ _ => none
  | .orRRI _ _ _ _ => none
  | .xorRRI _ _ _ _ => none
  | .ashiftRRI _ _ _ _ => none
  | .lshiftRRI _ _ _ _ => none
  | .addC _ _ _ _ => none
  | .subC _ _ _ _ => none
  | .conjC _ _ _ => none
  | .polarC _ _ _ => none
  | .rectC _ _ _ => none
  | .cpC _ _ _ => none
  | .mpy _ _ _ _ _ => none
  | .mac _ _ _ _ _ => none
  | .mas _ _ _ _ _ => none
  | .mpyC _ _ _ _ _ _ => none
  | .macC _ _ _ _ _ _ => none
  | .masC _ _ _ _ _ _ => none
  | .cpVR _ _ _ _ => none
  | .cpRV _ _ _ _ => none
  | .cpAA _ _ _ => none
  | .cpGR _ _ _ _ => none
  | .cpRG _ _ _ _ => none
  | .cpCR _ _ _ => none
  | .cpRC _ _ _ => none
  | .ldRI _ _ _ => none
  | .ldGI _ _ _ => none
  | .ldCI _ _ => none
  | .ldAbs _ x => some ⟨x, 16, 16⟩
  | .stAbs _ x => some ⟨x, 16, 16⟩
  | .ldCAbs _ x => some ⟨x, 16, 16⟩
  | .stCAbs _ x => some ⟨x, 16, 16⟩
  | .ldPostM _ _ _ _ => none
  | .stPostM _ _ _ _ => none
  | .ldCPostM _ _ _ _ => none
  | .stCPostM _ _ _ _ => none
  | .ldPreM _ _ _ _ => none
  | .stPreM _ _ _ _ => none
  | .ldCPreM _ _ _ _ => none
  | .stCPreM _ _ _ _ => none
  | .ldPostI _ _ _ _ => none
  | .stPostI _ _ _ _ => none
  | .ldCPostI _ _ _ _ => none
  | .stCPostI _ _ _ _ => none
  | .ldPreI _ _ _ _ => none
  | .stPreI _ _ _ _ => none
  | .ldCPreI _ _ _ _ => none
  | .stCPreI _ _ _ _ => none
  | .addLd _ _ _ _ _ _ _ => none
  | .addcLd _ _ _ _ _ _ _ => none
  | .subLd _ _ _ _ _ _ _ => none
  | .subbLd _ _ _ _ _ _ _ => none
  | .andLd _ _ _ _ _ _ _ => none
  | .orLd _ _ _ _ _ _ _ => none
  | .xorLd _ _ _ _ _ _ _ => none
  | .mpyLd _ _ _ _ _ _ _ _ => none
  | .macLd _ _ _ _ _ _ _ _ => none
  | .masLd _ _ _ _ _ _ _ _ => none
  | .mpyLdLd _ _ _ _ _ _ _ _ _ _ _ => none
  | .macLdLd _ _ _ _ _ _ _ _ _ _ _ => none
  | .masLdLd _ _ _ _ _ _ _ _ _ _ _ => none
  | .ashiftSt _ _ _ _ _ _ _ => none
  | .lshiftSt _ _ _ _ _ _ _ => none

/-- A listing line (R155): the union of the fields the source gives. -/
structure ListingLine where
  line : Nat
  addr : Addr
  bytes : List Byte
  mnemonic : String
  formatTag : String
  memRef : MemRef
  reloc : Option Reloc
  deriving DecidableEq, Repr

/-- An error record of the encoder: class, source line and address, offending token (R153,
60_exceptions.md R402); the content of `token` is not normative, a DESIGN CHOICE (log 24). -/
structure EncoderError where
  cls : ErrorClass
  line : Nat
  addr : Addr
  token : Offending
  deriving DecidableEq, Repr

/-- Everything the encoder produces, in emission order (R152, R156); `ERRCNT` is its error tally. -/
structure EncoderOutput where
  words : List (Addr × IWord)
  listing : List ListingLine
  errLog : List EncoderError
  errCnt : Nat
  deriving DecidableEq, Repr

/-- Nothing emitted yet. -/
def EncoderOutput.empty : EncoderOutput := ⟨[], [], [], 0⟩

/-- Emit one word with its listing line (R152 step 5). -/
def emitWord (out : EncoderOutput) (rec : InstructionRecord) (i : Instr) : EncoderOutput :=
  { out with
    words := out.words ++ [(rec.addr, encode i)]
    listing := out.listing ++
      [{ line := rec.line, addr := rec.addr, bytes := bytesOfWord (encode i),
         mnemonic := (formatOf i).mnemonic, formatTag := (formatOf i).name,
         memRef := memRefOf i, reloc := relocOf rec.addr i }] }

/-- `emit_error(class)` (R153): the error word at the record's address, an error listing line, a
record, a count. R153 gives the format tag `ERROR` of the line; that its mnemonic field holds `ERROR`
too is a DESIGN CHOICE (log 22). -/
def emitError (out : EncoderOutput) (rec : InstructionRecord) (e : Rejection) : EncoderOutput :=
  { words := out.words ++ [(rec.addr, errorWord)]
    listing := out.listing ++
      [{ line := rec.line, addr := rec.addr, bytes := bytesOfWord errorWord, mnemonic := "ERROR",
         formatTag := "ERROR", memRef := .none, reloc := none }]
    errLog := out.errLog ++ [⟨e.cls, rec.line, rec.addr, e.token⟩]
    errCnt := out.errCnt + 1 }

/-- One record (R151, R152): pseudo-ops contribute no bits; an error never stops the pass. -/
def encodeRecord (out : EncoderOutput) (rec : InstructionRecord) : EncoderOutput :=
  match rec.body with
  | .pseudoOp => out
  | .unresolved => emitError out rec ⟨.struct, .record⟩
  | .operation h sibs =>
    match selectRecord rec.addr rec.cond rec.formatId h sibs with
    | .ok i => emitWord out rec i
    | .error e => emitError out rec e

/-- Insert a record before the first record at a higher address. -/
def insertRecord (r : InstructionRecord) : List InstructionRecord → List InstructionRecord
  | [] => [r]
  | x :: xs => if r.addr.toNat < x.addr.toNat then r :: x :: xs else x :: insertRecord r xs

/-- Records in address order, records at one address in list order (R152, log 11). -/
def byAddress (rs : List InstructionRecord) : List InstructionRecord :=
  rs.foldl (fun acc r => insertRecord r acc) []

/-- `encode_program(list)` (R152): best effort over the whole list, in address order. Its tally and log
(60_exceptions.md R402) start empty at every encode, a DESIGN CHOICE (log 26). -/
def encodeProgram (rs : List InstructionRecord) : EncoderOutput :=
  (byAddress rs).foldl encodeRecord EncoderOutput.empty

/-- The binary stream: four bytes a word, in emission order (R156). -/
def binaryStream (out : EncoderOutput) : List Byte := out.words.flatMap fun w => bytesOfWord w.2

/-- An upper-case hexadecimal digit. -/
def hexDigit (n : Nat) : Char := if n < 10 then Char.ofNat (48 + n) else Char.ofNat (55 + n)

/-- A memory-image line: eight hexadecimal digits, most significant first (R156). -/
def imageLine (w : IWord) : String :=
  String.ofList ((List.range 8).map fun k => hexDigit (fld w (28 - 4 * k) 4))

/-- The memory image, one line per word (R156). -/
def memoryImage (out : EncoderOutput) : List String := out.words.map fun w => imageLine w.2

end Sys2Proof.Machine
end

