-- ==== Sys2Proof/Machine/HostInterface.lean ====
section
/-! DEFINITION. The host's transactions (spec/60_exceptions.md R425 to R428): they act only between
steps. Text formatting and files are outside the block (spec/00_scope.md R5). -/

namespace Sys2Proof.Machine

/-! ## What the transactions do to the block -/

/-- `load_program(words, base)` (R425): the whole of `IM` is replaced; word `k` is at `base + k`. -/
def loadProgram (s : State) (words : List IWord) (base : Addr) : State :=
  { s with im := words.zipIdx.foldl (fun im w => memPut im (base + BitVec.ofNat 16 w.2).toNat w.1) [] }

/-- `IM` from the encoder's output (30_encoding.md R156): every word at the address it was emitted for
(R153). For a list whose addresses are not consecutive R156's `base + k` differs from that; that the
record's address holds, and the later of two words at one address, is a DESIGN CHOICE (log 25). -/
def loadEncoded (s : State) (out : EncoderOutput) : State :=
  { s with im := out.words.foldl (fun im w => memPut im w.1.toNat w.2) [] }

/-- Integers an initialisation line may hold (20_memory.md R74). -/
def dmIntegerOk (n : Int) : Bool := decide (-2048 ≤ n) && decide (n ≤ 4095)

/-- One line of the initialisation file: the tuple of one address, lane 0 first (20_memory.md R74);
`none` where an integer or the address is out of range (log 13). -/
def initDmLine (s : State) (a : Nat) (v : Lanes Int) : Option State :=
  if dmIntegerOk v.l0 && dmIntegerOk v.l1 && dmIntegerOk v.l2 && dmIntegerOk v.l3
      && decide (a < s.params.dmWords) then
    some { s with lanes := Lanes.ofFn fun k =>
      { s.lane k with dm := memPut (s.lane k).dm a (trunc 12 (v.get k)) } }
  else none

/-- `init_dm(file)` (R425): line `k` is the tuple of address `start + k` (20_memory.md R74). -/
def initDm (s : State) (start : Nat) : List (Lanes Int) → Option State
  | [] => some s
  | v :: vs =>
    match initDmLine s start v with
    | some t => initDm t (start + 1) vs
    | none => none

/-- `hard_reset()` (70_reset_and_hazards.md R440): `DM` and `IM` are not written. -/
def hardReset (s : State) : State :=
  { State.resetWith s.params with
    lanes := Lanes.ofFn fun k => { LaneState.reset with dm := (s.lane k).dm }
    im := s.im }

/-- One tuple of the dump, signed, lane 0 first (20_memory.md R74). -/
def dumpTuple (s : State) (a : Addr) : Lanes Int :=
  Lanes.ofFn fun k => (dmRead k (s.lane k).dm a).toInt

/-- `dump_dm(range)` (R425): one tuple per address. What a range shows past 0xFFFF or at addresses not
below `P_DM_WORDS` the spec leaves open: it goes on at address 0, and an unimplemented address shows the
free content of an unwritten word; no range is refused. DESIGN CHOICE (log 21). -/
def dumpDm (s : State) (start : Addr) (n : Nat) : List (Lanes Int) :=
  (List.range n).map fun k => dumpTuple s (start + BitVec.ofNat 16 k)

/-- The stepper's grid: 16 rows of 8 tuples from address `a` (R426); at the end of memory as `dumpDm`
(log 21). -/
def memoryGrid (s : State) (a : Addr) : List (List (Lanes Int)) :=
  (List.range 16).map fun row => dumpDm s (a + BitVec.ofNat 16 (8 * row)) 8

/-- Success of a run, for the driver (R402). -/
def runSucceeded (s : State) : Bool := s.errCnt == 0

/-- The state after one `step()`; the block never stops with a fault or a refusal. -/
def stepState (s : State) : State :=
  match step s with
  | .next t => t
  | .fault _ => s
  | .refused _ => s

/-- `latency_added` of the step from `s`, which the host may read (R425): what its cycles exceed one by. -/
def stepLatencyAdded (s : State) : Nat := (stepState s).cycles - s.cycles - 1

/-! ## The host -/

/-- The host with its block: the machine, the stepper's breakpoint set, whether a step was made since
the last hard reset (R428), and whether the host quit (R426). -/
structure Stepper where
  machine : State
  breakpoints : List Addr
  started : Bool
  quit : Bool
  deriving DecidableEq, Repr

/-- The host at start: a block after hard reset, no breakpoint (R426), no step made. -/
def Stepper.start (p : Params) : Stepper :=
  { machine := State.resetWith p, breakpoints := [], started := false, quit := false }

/-- Stepper commands (R426); `resume n` is Continue observed for at most `n + 1` steps. -/
inductive Command where
  | step
  | resume (n : Nat)
  | breakSet (a : Addr)
  | breakDelete (a : Addr)
  | memoryDump (a : Addr)
  | quit
  deriving DecidableEq, Repr

/-- Host transactions (R425); `step()` is the stepper's Step. -/
inductive Transaction where
  | encode (records : List InstructionRecord)
  | loadProgram (words : List IWord) (base : Addr)
  /-- `load_program` of what the encoder emitted -/
  | loadEncoded (out : EncoderOutput)
  | initDm (start : Nat) (lines : List (Lanes Int))
  | hardReset
  | command (c : Command)
  | dumpDm (start : Addr) (n : Nat)
  | readState
  deriving DecidableEq, Repr

/-- What a transaction hands to the host. -/
inductive Answer where
  | done
  | stepped (latencyAdded : Nat)
  /-- the transaction was turned away and nothing changed: after Quit (log 19), after the first step
  (log 23), or an initialisation line out of range (log 13) -/
  | refused
  | encoded (out : EncoderOutput)
  | tuples (ts : List (Lanes Int))
  | grid (rows : List (List (Lanes Int)))
  | state (s : State)
  deriving DecidableEq, Repr

/-- Steps until `halted`, or until `PC` is a breakpoint, at most `n` of them (R426). -/
def continueFrom (breakpoints : List Addr) : Nat → State → State
  | 0, s => s
  | n + 1, s =>
    if s.halted || breakpoints.contains s.pc then s else continueFrom breakpoints n (stepState s)

/-- A command and what it shows (R426): the first step of a Continue is always executed; breakpoints are
host state only; Memory-dump shows the grid and has no effect; Quit ends the run. After Quit there is no
further step; that every other command is turned away too is a DESIGN CHOICE (log 19). -/
def runCommand (h : Stepper) (c : Command) : Stepper × Answer :=
  if h.quit then (h, .refused)
  else
    match c with
    | .step =>
      ({ h with machine := stepState h.machine, started := true }, .stepped (stepLatencyAdded h.machine))
    | .resume n =>
      ({ h with machine := continueFrom h.breakpoints n (stepState h.machine), started := true }, .done)
    | .breakSet a =>
      ({ h with breakpoints := if h.breakpoints.contains a then h.breakpoints else a :: h.breakpoints },
        .done)
    | .breakDelete a => ({ h with breakpoints := h.breakpoints.filter fun x => x != a }, .done)
    | .memoryDump a => (h, .grid (memoryGrid h.machine a))
    | .quit => ({ h with quit := true }, .done)

/-- A write of `IM` or `DM` from outside: only before the first step after a hard reset (R428). That one
made later is turned away and changes nothing is a DESIGN CHOICE (log 23). -/
def beforeFirstStep (h : Stepper) (t : Option State) : Stepper × Answer :=
  match h.started, t with
  | false, some s => ({ h with machine := s }, .done)
  | _, _ => (h, .refused)

/-- One transaction, between steps (R425, R428). A hard reset keeps the breakpoints (R426) and opens a
new run, also after Quit (log 19). -/
def transact (h : Stepper) : Transaction → Stepper × Answer
  | .encode rs => (h, .encoded (encodeProgram rs))
  | .loadProgram ws base => beforeFirstStep h (some (loadProgram h.machine ws base))
  | .loadEncoded out => beforeFirstStep h (some (loadEncoded h.machine out))
  | .initDm start lines => beforeFirstStep h (initDm h.machine start lines)
  | .hardReset => ({ h with machine := hardReset h.machine, started := false, quit := false }, .done)
  | .command c => runCommand h c
  | .dumpDm start n => (h, .tuples (dumpDm h.machine start n))
  | .readState => (h, .state h.machine)

end Sys2Proof.Machine
end

