-- ==== Sys2Proof/Safety.lean ====
section
/-! DEFINITION. The terms that statements about the machine are written in: the invariant of every state,
what counts as an error step, the frames of a step, the ways a step leaves the program counter, and
the values the instruction rules give, each in the words of spec/ and apart from the meanings. -/

namespace Sys2Proof.Machine

/-! ## The invariant -/

/-- The information of an error record belongs to its class (60_exceptions.md R404). -/
def ErrorInfo.fits : ErrorInfo → ErrorClass → Bool
  | .word _, c => c == .shape
  | .readOnly x, c => c == .shape && ctlReadOnly x
  | .transfer _, c => c == .struct
  | .sameDestination, c => c == .struct
  | .address _, c => c == .addr

/-- What holds in every state of a run: legal parameters (00_scope.md R9), canonical memories inside
their address ranges (20_memory.md R71, R73), stacks of at most eight entries (10_state.md R46), a
loop-underflow bit that is never set (R37), no delay-slot state where there are no delay slots (R53),
and an error tally that counts the log, whose classes are those R404 gives the execution unit. -/
structure State.Inv (s : State) : Prop where
  params : s.params.legal = true
  dmForm : ∀ n, memWf (s.lane n).dm = true
  dmRange : ∀ n, memBelow s.params.dmWords (s.lane n).dm = true
  imForm : memWf s.im = true
  imRange : memBelow 65536 s.im = true
  pcDepth : s.pcStk.length ≤ 8
  lpDepth : s.lpStk.length ≤ 8
  stsDepth : s.stsStk.length ≤ 8
  noLoopUnderflow : s.sstat.getLsbD 3 = false
  noSlots : s.params.delaySlot = false → s.dsPending = false ∧ s.dsTarget = 0
  tally : s.errCnt = s.errLog.length
  causes : s.errLog.all (fun e => e.info.fits e.cls) = true

/-! ## Data words and addresses -/

/-- The word lane `n` reads at data address `a` (20_memory.md R76). -/
def dataWord (s : State) (n : LaneId) (a : Addr) : DWord := dmRead n (s.lane n).dm a

/-- The address is implemented, and for a complex access even with both words implemented
(20_memory.md R73, R86). -/
def AddressOk (s : State) (cplx : Bool) (ea : Addr) : Prop :=
  ea.toNat < s.params.dmWords ∧
    (cplx = true → ea.toNat % 2 = 0 ∧ ea.toNat + 1 < s.params.dmWords)

/-! ## Frames -/

/-- The I, M, L, B registers are unchanged. -/
structure AddressKept (s t : State) : Prop where
  i : t.i = s.i
  m : t.m = s.m
  l : t.l = s.l
  b : t.b = s.b

/-- `CNTR`, `MSTAT`, `SSTAT` are unchanged. -/
structure ControlKept (s t : State) : Prop where
  cntr : t.cntr = s.cntr
  mstat : t.mstat = s.mstat
  sstat : t.sstat = s.sstat

/-- The return-address stack and the status stack are unchanged. -/
structure StacksKept (s t : State) : Prop where
  pcStk : t.pcStk = s.pcStk
  stsStk : t.stsStk = s.stsStk

/-- What no instruction writes: the parameters, program memory, `halted`. -/
structure MachineKept (s t : State) : Prop where
  params : t.params = s.params
  im : t.im = s.im
  halted : t.halted = s.halted

/-- No error was recorded. -/
structure NoError (s t : State) : Prop where
  errCnt : t.errCnt = s.errCnt
  errLog : t.errLog = s.errLog

/-- Everything of every lane is unchanged: registers, accumulators, flags, data memory. -/
def LanesKept (s t : State) : Prop := ∀ n, t.lane n = s.lane n

/-- In lane `n` nothing changes but the registers `rs`, the accumulators `ks`, the flags `fr`, `fi`,
`fc` of the real, imaginary and combined bundle, and the data words at `ws`. -/
structure LaneFrame (rs : List Reg) (ks : List AccIx) (fr fi fc : List Flag) (ws : List Addr)
    (s t : State) (n : LaneId) : Prop where
  regs : ∀ r, r ∉ rs → getR (t.lane n) r = getR (s.lane n) r
  accs : ∀ k, k ∉ ks → getAcc (t.lane n) k = getAcc (s.lane n) k
  real : ∀ f, f ∉ fr → flagOf (t.lane n).astatR f = flagOf (s.lane n).astatR f
  imag : ∀ f, f ∉ fi → flagOf (t.lane n).astatI f = flagOf (s.lane n).astatI f
  comb : ∀ f, f ∉ fc → flagOf (t.lane n).astatC f = flagOf (s.lane n).astatC f
  mem : ∀ a, a ∉ ws → dataWord t n a = dataWord s n a

/-- Exactly the listed bits of `SSTAT` are newly set; every other bit keeps its value. -/
def StatusBitsSet (bits : List Nat) (s t : State) : Prop :=
  ∀ k, t.sstat.getLsbD k = (s.sstat.getLsbD k || bits.contains k)

/-- The index registers named in `ws` receive the values there; every other address-generator register
is unchanged. -/
structure IndexWrites (ws : List (GIx × Addr)) (s t : State) : Prop where
  index : ∀ k, readG t .i k = (ws.lookup k).getD (readG s .i k)
  m : t.m = s.m
  l : t.l = s.l
  b : t.b = s.b

/-! ## Where a step goes (45_control_flow.md R341) -/

/-- The step ends without a taken transfer: a pending redirection, else the loop end of the loop stack
`stk` as the word left it, else the next address (R341 cases 1, 3, 4). -/
structure FallsThrough (stk : List LoopEntry) (s t : State) : Prop where
  slot : s.dsPending = true → t.pc = s.dsTarget ∧ t.lpStk = stk
  next : s.dsPending = false → (∀ e rest, stk = e :: rest → s.pc ≠ e.last) →
    t.pc = s.pc + 1 ∧ t.lpStk = stk
  forever : s.dsPending = false → ∀ e rest, stk = e :: rest → s.pc = e.last → e.forever = true →
    t.pc = e.first ∧ t.lpStk = stk
  again : s.dsPending = false → ∀ e rest, stk = e :: rest → s.pc = e.last → e.forever = false →
    e.count ≠ 1 → t.pc = e.first ∧ t.lpStk = { e with count := e.count - 1 } :: rest
  done : s.dsPending = false → ∀ e rest, stk = e :: rest → s.pc = e.last → e.forever = false →
    e.count = 1 → t.pc = s.pc + 1 ∧ t.lpStk = rest
  pending : t.dsPending = false
  target : t.dsTarget = s.dsTarget

/-- The step took a transfer to `target`: at once, or after one delay slot (R341 case 2); a pending
redirection comes first (case 1). -/
structure Redirects (target : Addr) (s t : State) : Prop where
  slot : s.dsPending = true → t.pc = s.dsTarget ∧ t.dsPending = false ∧ t.dsTarget = s.dsTarget
  now : s.dsPending = false → s.params.delaySlot = false →
    t.pc = target ∧ t.dsPending = false ∧ t.dsTarget = s.dsTarget
  later : s.dsPending = false → s.params.delaySlot = true →
    t.pc = s.pc + 1 ∧ t.dsPending = true ∧ t.dsTarget = target
  loops : t.lpStk = s.lpStk

/-- A step that changes nothing shared but the sequencing of the program. -/
structure OnlyLanes (s t : State) : Prop where
  address : AddressKept s t
  control : ControlKept s t
  stk : StacksKept s t
  machine : MachineKept s t
  errors : NoError s t
  flow : FallsThrough s.lpStk s t

/-- A step that raised an error of class `cls` (60_exceptions.md R401, R407): the state before it, but
for the record, one cycle, `prev_store`, and the sequencing of a `NOP`. -/
structure ErrorStep (cls : ErrorClass) (s t : State) : Prop where
  lanes : LanesKept s t
  address : AddressKept s t
  control : ControlKept s t
  stk : StacksKept s t
  machine : MachineKept s t
  flow : FallsThrough s.lpStk s t
  count : t.errCnt = s.errCnt + 1
  log : ∃ info, t.errLog = s.errLog ++ [⟨cls, s.pc, info⟩]
  cycles : t.cycles = s.cycles + 1
  prev : t.prevStore = false

/-! ## Conditions -/

/-- The condition field of an instruction; `none` for a format that has none (30_encoding.md R120 to
R145). -/
def condField : Instr → Option Cond
  | .nop => none
  | .reset => none
  | .pushSts => none
  | .popSts => none
  | .jump _ c => some c
  | .call _ c => some c
  | .rts c => some c
  | .doUntil _ _ => none
  | .addRRR _ _ _ c => some c
  | .addcRRR _ _ _ c => some c
  | .subRRR _ _ _ c => some c
  | .subbRRR _ _ _ c => some c
  | .andRRR _ _ _ c => some c
  | .orRRR _ _ _ c => some c
  | .xorRRR _ _ _ c => some c
  | .notRR _ _ c => some c
  | .absRR _ _ c => some c
  | .negRR _ _ c => some c
  | .cpRR _ _ c => some c
  | .ashiftRRR _ _ _ c => some c
  | .lshiftRRR _ _ _ c => some c
  | .divsRRR _ _ _ c => some c
  | .divqRRR _ _ _ c => some c
  | .addRRI _ _ _ c => some c
  | .addcRRI _ _ _ c => some c
  | .subRRI _ _ _ c => some c
  | .subbRRI _ _ _ c => some c
  | .andRRI _ _ _ c => some c
  | .orRRI _ _ _ c => some c
  | .xorRRI _ _ _ c => some c
  | .ashiftRRI _ _ _ c => some c
  | .lshiftRRI _ _ _ c => some c
  | .addC _ _ _ c => some c
  | .subC _ _ _ c => some c
  | .conjC _ _ c => some c
  | .polarC _ _ c => some c
  | .rectC _ _ c => some c
  | .cpC _ _ c => some c
  | .mpy _ _ _ _ c => some c
  | .mac _ _ _ _ c => some c
  | .mas _ _ _ _ c => some c
  | .mpyC _ _ _ _ _ c => some c
  | .macC _ _ _ _ _ c => some c
  | .masC _ _ _ _ _ c => some c
  | .cpVR _ _ _ c => some c
  | .cpRV _ _ _ c => some c
  | .cpAA _ _ c => some c
  | .cpGR _ _ _ c => some c
  | .cpRG _ _ _ c => some c
  | .cpCR _ _ c => some c
  | .cpRC _ _ c => some c
  | .ldRI _ _ c => some c
  | .ldGI _ _ _ => none
  | .ldCI _ _ => none
  | .ldAbs _ _ => none
  | .stAbs _ _ => none
  | .ldCAbs _ _ => none
  | .stCAbs _ _ => none
  | .ldPostM _ _ _ c => some c
  | .stPostM _ _ _ c => some c
  | .ldCPostM _ _ _ c => some c
  | .stCPostM _ _ _ c => some c
  | .ldPreM _ _ _ c => some c
  | .stPreM _ _ _ c => some c
  | .ldCPreM _ _ _ c => some c
  | .stCPreM _ _ _ c => some c
  | .ldPostI _ _ _ c => some c
  | .stPostI _ _ _ c => some c
  | .ldCPostI _ _ _ c => some c
  | .stCPostI _ _ _ c => some c
  | .ldPreI _ _ _ c => some c
  | .stPreI _ _ _ c => some c
  | .ldCPreI _ _ _ c => some c
  | .stCPreI _ _ _ c => some c
  | .addLd _ _ _ _ _ _ c => some c
  | .addcLd _ _ _ _ _ _ c => some c
  | .subLd _ _ _ _ _ _ c => some c
  | .subbLd _ _ _ _ _ _ c => some c
  | .andLd _ _ _ _ _ _ c => some c
  | .orLd _ _ _ _ _ _ c => some c
  | .xorLd _ _ _ _ _ _ c => some c
  | .mpyLd _ _ _ _ _ _ _ c => some c
  | .macLd _ _ _ _ _ _ _ c => some c
  | .masLd _ _ _ _ _ _ _ c => some c
  | .mpyLdLd _ _ _ _ _ _ _ _ _ _ c => some c
  | .macLdLd _ _ _ _ _ _ _ _ _ _ c => some c
  | .masLdLd _ _ _ _ _ _ _ _ _ _ c => some c
  | .ashiftSt _ _ _ _ _ _ c => some c
  | .lshiftSt _ _ _ _ _ _ c => some c

/-- The complex-class instructions, whose condition reads the combined bundle (10_state.md R39). -/
def complexClass : Instr → Bool
  | .nop => false
  | .reset => false
  | .pushSts => false
  | .popSts => false
  | .jump _ _ => false
  | .call _ _ => false
  | .rts _ => false
  | .doUntil _ _ => false
  | .addRRR _ _ _ _ => false
  | .addcRRR _ _ _ _ => false
  | .subRRR _ _ _ _ => false
  | .subbRRR _ _ _ _ => false
  | .andRRR _ _ _ _ => false
  | .orRRR _ _ _ _ => false
  | .xorRRR _ _ _ _ => false
  | .notRR _ _ _ => false
  | .absRR _ _ _ => false
  | .negRR _ _ _ => false
  | .cpRR _ _ _ => false
  | .ashiftRRR _ _ _ _ => false
  | .lshiftRRR _ _ _ _ => false
  | .divsRRR _ _ _ _ => false
  | .divqRRR _ _ _ _ => false
  | .addRRI _ _ _ _ => false
  | .addcRRI _ _ _ _ => false
  | .subRRI _ _ _ _ => false
  | .subbRRI _ _ _ _ => false
  | .andRRI _ _ _ _ => false
  | .orRRI _ _ _ _ => false
  | .xorRRI _ _ _ _ => false
  | .ashiftRRI _ _ _ _ => false
  | .lshiftRRI _ _ _ _ => false
  | .addC _ _ _ _ => true
  | .subC _ _ _ _ => true
  | .conjC _ _ _ => true
  | .polarC _ _ _ => true
  | .rectC _ _ _ => true
  | .cpC _ _ _ => true
  | .mpy _ _ _ _ _ => false
  | .mac _ _ _ _ _ => false
  | .mas _ _ _ _ _ => false
  | .mpyC _ _ _ _ _ _ => true
  | .macC _ _ _ _ _ _ => true
  | .masC _ _ _ _ _ _ => true
  | .cpVR _ _ _ _ => false
  | .cpRV _ _ _ _ => false
  | .cpAA _ _ _ => false
  | .cpGR _ _ _ _ => false
  | .cpRG _ _ _ _ => false
  | .cpCR _ _ _ => false
  | .cpRC _ _ _ => false
  | .ldRI _ _ _ => false
  | .ldGI _ _ _ => false
  | .ldCI _ _ => false
  | .ldAbs _ _ => false
  | .stAbs _ _ => false
  | .ldCAbs _ _ => true
  | .stCAbs _ _ => true
  | .ldPostM _ _ _ _ => false
  | .stPostM _ _ _ _ => false
  | .ldCPostM _ _ _ _ => true
  | .stCPostM _ _ _ _ => true
  | .ldPreM _ _ _ _ => false
  | .stPreM _ _ _ _ => false
  | .ldCPreM _ _ _ _ => true
  | .stCPreM _ _ _ _ => true
  | .ldPostI _ _ _ _ => false
  | .stPostI _ _ _ _ => false
  | .ldCPostI _ _ _ _ => true
  | .stCPostI _ _ _ _ => true
  | .ldPreI _ _ _ _ => false
  | .stPreI _ _ _ _ => false
  | .ldCPreI _ _ _ _ => true
  | .stCPreI _ _ _ _ => true
  | .addLd _ _ _ _ _ _ _ => false
  | .addcLd _ _ _ _ _ _ _ => false
  | .subLd _ _ _ _ _ _ _ => false
  | .subbLd _ _ _ _ _ _ _ => false
  | .andLd _ _ _ _ _ _ _ => false
  | .orLd _ _ _ _ _ _ _ => false
  | .xorLd _ _ _ _ _ _ _ => false
  | .mpyLd _ _ _ _ _ _ _ _ => false
  | .macLd _ _ _ _ _ _ _ _ => false
  | .masLd _ _ _ _ _ _ _ _ => false
  | .mpyLdLd _ _ _ _ _ _ _ _ _ _ _ => false
  | .macLdLd _ _ _ _ _ _ _ _ _ _ _ => false
  | .masLdLd _ _ _ _ _ _ _ _ _ _ _ => false
  | .ashiftSt _ _ _ _ _ _ _ => false
  | .lshiftSt _ _ _ _ _ _ _ => false

/-- `mask[n]` of an instruction (10_state.md R39, R40); true where the format has no condition. -/
def laneSelected (i : Instr) (s : State) (n : LaneId) : Bool :=
  match condField i with
  | none => true
  | some c => condHolds c (if complexClass i then (s.lane n).astatC else (s.lane n).astatR)

/-- The registers, flags, stacks and program that all lanes share agree in two states. -/
structure SameShared (s u : State) : Prop where
  params : u.params = s.params
  address : AddressKept s u
  control : ControlKept s u
  stk : StacksKept s u
  loops : u.lpStk = s.lpStk
  pc : u.pc = s.pc
  im : u.im = s.im

/-! ## Integer arithmetic (40_alu.md R182 to R191) -/

/-- The two-source ALU instructions by operation and y operand: `ADD ADDC SUB SUBB AND OR XOR`, register
and immediate forms. -/
def realAlu (op : AluOp) (rd rx : Reg) (y : YOperand) (c : Cond) : Instr :=
  match op, y with
  | .add, .reg ry => .addRRR rd rx ry c
  | .addc, .reg ry => .addcRRR rd rx ry c
  | .sub, .reg ry => .subRRR rd rx ry c
  | .subb, .reg ry => .subbRRR rd rx ry c
  | .and, .reg ry => .andRRR rd rx ry c
  | .or, .reg ry => .orRRR rd rx ry c
  | .xor, .reg ry => .xorRRR rd rx ry c
  | .add, .imm b => .addRRI rd rx b c
  | .addc, .imm b => .addcRRI rd rx b c
  | .sub, .imm b => .subRRI rd rx b c
  | .subb, .imm b => .subbRRI rd rx b c
  | .and, .imm b => .andRRI rd rx b c
  | .or, .imm b => .orRRI rd rx b c
  | .xor, .imm b => .xorRRI rd rx b c

/-- The same operations as the ALU half of `ALU || LD` (47_multifunction.md R384). -/
def aluBundle (op : AluOp) (rd rx ry : Reg) (lrd : Reg8) (li lm : Ix4) (c : Cond) : Instr :=
  match op with
  | .add => .addLd rd rx ry lrd li lm c
  | .addc => .addcLd rd rx ry lrd li lm c
  | .sub => .subLd rd rx ry lrd li lm c
  | .subb => .subbLd rd rx ry lrd li lm c
  | .and => .andLd rd rx ry lrd li lm c
  | .or => .orLd rd rx ry lrd li lm c
  | .xor => .xorLd rd rx ry lrd li lm c

/-- The result as a 12-bit value; `c` is the carry in. -/
def aluValue (op : AluOp) (x y : DWord) (c : Bool) : DWord :=
  match op with
  | .add => x + y
  | .addc => x + y + (if c then 1 else 0)
  | .sub => x - y
  | .subb => x - y - (if c then 0 else 1)
  | .and => x &&& y
  | .or => x ||| y
  | .xor => x ^^^ y

/-- The carry: out of bit 11 for sums, "no borrow" for differences, 0 for logic. -/
def aluCarry (op : AluOp) (x y : DWord) (c : Bool) : Bool :=
  match op with
  | .add => decide (4096 ≤ x.toNat + y.toNat)
  | .addc => decide (4096 ≤ x.toNat + y.toNat + c.toNat)
  | .sub => decide (y.toNat ≤ x.toNat)
  | .subb => decide (y.toNat + 1 ≤ x.toNat + c.toNat)
  | .and => false
  | .or => false
  | .xor => false

/-- An integer that no signed 12-bit value denotes. -/
def overflows12 (n : Int) : Bool := decide (n < -2048 ∨ 2047 < n)

/-- Signed overflow: the exact signed result is not a 12-bit value; 0 for logic. -/
def aluOverflow (op : AluOp) (x y : DWord) (c : Bool) : Bool :=
  match op with
  | .add => overflows12 (x.toInt + y.toInt)
  | .addc => overflows12 (x.toInt + y.toInt + c.toNat)
  | .sub => overflows12 (x.toInt - y.toInt)
  | .subb => overflows12 (x.toInt - y.toInt - 1 + c.toNat)
  | .and => false
  | .or => false
  | .xor => false

/-- The flags an ALU instruction writes, with the sticky overflow bit. -/
def aluFlagSet : List Flag := [.az, .an, .av, .ac, .avs]

/-- Bundle `b` is bundle `a` with the flags of an ALU result `r` written (40_alu.md R183, R184). -/
structure AluFlags (r : DWord) (v c : Bool) (a b : FlagBundle) : Prop where
  az : flagOf b .az = decide (r = 0)
  an : flagOf b .an = r.msb
  av : flagOf b .av = v
  ac : flagOf b .ac = c
  avs : flagOf b .avs = (flagOf a .avs || v)

/-- The combined bundle after a complex ALU result: zero iff both parts are, every other flag from
either part (41_complex.md R212). -/
structure CombinedFlags (re im : DWord) (vr vi cr ci : Bool) (a b : FlagBundle) : Prop where
  az : flagOf b .az = (decide (re = 0) && decide (im = 0))
  an : flagOf b .an = (re.msb || im.msb)
  av : flagOf b .av = (vr || vi)
  ac : flagOf b .ac = (cr || ci)
  avs : flagOf b .avs = (flagOf a .avs || (vr || vi))

/-! ## Multiplier (42_mac.md R231 to R238) -/

/-- The real multiplier instructions by accumulation kind. -/
def realMac (kind : MacKind) (o : MacOpt) (acc : AccIx) (rx ry : Reg) (c : Cond) : Instr :=
  match kind with
  | .mpy => .mpy o acc rx ry c
  | .mac => .mac o acc rx ry c
  | .mas => .mas o acc rx ry c

/-- The complex multiplier instructions by accumulation kind. -/
def complexMac (kind : MacKind) (conj : Bool) (o : MacOpt) (acc : AccIx) (rx ry : Reg) (c : Cond) :
    Instr :=
  match kind with
  | .mpy => .mpyC conj o acc rx ry c
  | .mac => .macC conj o acc rx ry c
  | .mas => .masC conj o acc rx ry c

/-- The multiplier half of `MAC || LD` (47_multifunction.md R385). -/
def macBundle (kind : MacKind) (o : MacOpt) (acc : AccIx) (rx ry : Reg) (lrd : Reg8) (li lm : Ix4)
    (c : Cond) : Instr :=
  match kind with
  | .mpy => .mpyLd o acc rx ry lrd li lm c
  | .mac => .macLd o acc rx ry lrd li lm c
  | .mas => .masLd o acc rx ry lrd li lm c

/-- The multiplier half of `MAC || LD || LD` (47_multifunction.md R386). -/
def macBundle3 (kind : MacKind) (o : MacOpt1) (acc : Acc4) (rx ry l1rd : Reg8) (l1i l1m : Ix4)
    (l2rd : Reg8) (l2i l2m : Ix4) (c : Cond) : Instr :=
  match kind with
  | .mpy => .mpyLdLd o acc rx ry l1rd l1i l1m l2rd l2i l2m c
  | .mac => .macLdLd o acc rx ry l1rd l1i l1m l2rd l2i l2m c
  | .mas => .masLdLd o acc rx ry l1rd l1i l1m l2rd l2i l2m c

/-- The x operand as an integer: unsigned under `(US)` and `(UU)` (R232). -/
def macX (o : MacOpt) (v : DWord) : Int :=
  match o with
  | .ss => v.toInt
  | .su => v.toInt
  | .us => v.toNat
  | .uu => v.toNat
  | .rnd => v.toInt

/-- The y operand as an integer: unsigned under `(SU)` and `(UU)` (R232). -/
def macY (o : MacOpt) (v : DWord) : Int :=
  match o with
  | .ss => v.toInt
  | .su => v.toNat
  | .us => v.toInt
  | .uu => v.toNat
  | .rnd => v.toInt

/-- The exact result for the product `p` on the accumulator `a`: `(RND)` adds 0x800 (R233). -/
def macResult (kind : MacKind) (o : MacOpt) (a : AccWord) (p : Int) : Int :=
  let r : Int := if o = .rnd then 2048 else 0
  match kind with
  | .mpy => p + r
  | .mac => a.toInt + p + r
  | .mas => a.toInt - p + r

/-- An accumulator that received the exact result `n`: saturated to 32 bits (R233). -/
def Saturated (n : Int) (a : AccWord) : Prop := a.toInt = max (-2147483648) (min 2147483647 n)

/-- `MV`: the result does not fit 24 signed bits (R233). -/
def mvOf (n : Int) : Bool := decide (n < -8388608 ∨ 8388607 < n)

/-- Bundle `b` is bundle `a` with `MV` written (R234). -/
structure MvFlags (v : Bool) (a b : FlagBundle) : Prop where
  mv : flagOf b .mv = v
  mvs : flagOf b .mvs = (flagOf a .mvs || v)

/-- The accumulator and `MV` of lane `n` after a real multiplier operation (R235 to R237). -/
def MacDone (kind : MacKind) (o : MacOpt) (acc : AccIx) (rx ry : Reg) (s t : State) (n : LaneId) :
    Prop :=
  let r := macResult kind o (getAcc (s.lane n) acc)
    (macX o (getR (s.lane n) rx) * macY o (getR (s.lane n) ry))
  Saturated r (getAcc (t.lane n) acc) ∧ MvFlags (mvOf r) (s.lane n).astatR (t.lane n).astatR

/-! ## Shifter (43_shift_divide.md R251, R252) -/

/-- The shift instructions by kind and amount operand. -/
def realShift (kind : ShiftKind) (rd rx : Reg) (y : YOperand) (c : Cond) : Instr :=
  match kind, y with
  | .arith, .reg ry => .ashiftRRR rd rx ry c
  | .logic, .reg ry => .lshiftRRR rd rx ry c
  | .arith, .imm b => .ashiftRRI rd rx b c
  | .logic, .imm b => .lshiftRRI rd rx b c

/-- The shifter half of `SHIFT || ST` (47_multifunction.md R387). -/
def shiftBundle (kind : ShiftKind) (rd rx ry : Reg) (srs : Reg8) (si sm : Ix4) (c : Cond) : Instr :=
  match kind with
  | .arith => .ashiftSt rd rx ry srs si sm c
  | .logic => .lshiftSt rd rx ry srs si sm c

/-- The shift amount before the clamp: signed register or signed immediate (R251). -/
def amountOf (y : YOperand) (ln : LaneState) : Int :=
  match y with
  | .reg ry => (getR ln ry).toInt
  | .imm b => b.toInt

/-- The amount clamped to -12 .. 12 (R251). -/
def clamped (n : Int) : Int := if n < -12 then -12 else if 12 < n then 12 else n

/-- The shifted value: left for a positive amount, right for a negative one; a right shift replicates
the sign for `ASHIFT` and shifts zeros in for `LSHIFT` (R252). -/
def shiftValue (kind : ShiftKind) (x : DWord) (n : Int) : DWord :=
  if 0 ≤ n then x <<< n.toNat
  else
    match kind with
    | .arith => x.sshiftRight (-n).toNat
    | .logic => x >>> (-n).toNat

/-- `SV`: a left shift lost significant bits or the sign (`ASHIFT`), or a 1 bit (`LSHIFT`) (R252). -/
def shiftOverflow (kind : ShiftKind) (x : DWord) (n : Int) : Bool :=
  decide (0 ≤ n) &&
    match kind with
    | .arith => overflows12 (x.toInt * 2 ^ n.toNat)
    | .logic => decide (4096 ≤ x.toNat * 2 ^ n.toNat)

/-- The flags a shift writes, with the sticky overflow bit. -/
def shiftFlagSet : List Flag := [.ss, .sv, .svs]

/-- Register, `SS` and `SV` of lane `n` after a shift (R252 to R254). -/
def ShiftDone (kind : ShiftKind) (rd rx : Reg) (y : YOperand) (s t : State) (n : LaneId) : Prop :=
  let x := getR (s.lane n) rx
  let k := clamped (amountOf y (s.lane n))
  getR (t.lane n) rd = shiftValue kind x k ∧
    flagOf (t.lane n).astatR .ss = x.msb ∧
    flagOf (t.lane n).astatR .sv = shiftOverflow kind x k ∧
    flagOf (t.lane n).astatR .svs = (flagOf (s.lane n).astatR .svs || shiftOverflow kind x k)

/-! ## Loads and stores (44_move_load_store.md R286 to R293) -/

/-- The four memory mnemonics. -/
inductive MemOp where
  | ld | st | ldC | stC
  deriving DecidableEq, Repr

/-- `LD.C` and `ST.C` move two words and read the combined bundle. -/
def MemOp.cplx : MemOp → Bool
  | .ld => false
  | .st => false
  | .ldC => true
  | .stC => true

/-- The twenty load and store instructions by mnemonic and addressing mode (R287). -/
def memInstr (op : MemOp) (mode : Mode) (r : Reg) (c : Cond) : Instr :=
  match op, mode with
  | .ld, .abs a => .ldAbs r a
  | .st, .abs a => .stAbs r a
  | .ldC, .abs a => .ldCAbs r a
  | .stC, .abs a => .stCAbs r a
  | .ld, .postM i m => .ldPostM r i m c
  | .st, .postM i m => .stPostM r i m c
  | .ldC, .postM i m => .ldCPostM r i m c
  | .stC, .postM i m => .stCPostM r i m c
  | .ld, .preM i m => .ldPreM r i m c
  | .st, .preM i m => .stPreM r i m c
  | .ldC, .preM i m => .ldCPreM r i m c
  | .stC, .preM i m => .stCPreM r i m c
  | .ld, .postI i b => .ldPostI r i b c
  | .st, .postI i b => .stPostI r i b c
  | .ldC, .postI i b => .ldCPostI r i b c
  | .stC, .postI i b => .stCPostI r i b c
  | .ld, .preI i b => .ldPreI r i b c
  | .st, .preI i b => .stPreI r i b c
  | .ldC, .preI i b => .ldCPreI r i b c
  | .stC, .preI i b => .stCPreI r i b c

/-- The post-modify write of a mode (20_memory.md R80, R82). -/
def modeWrites (s : State) : Mode → List (GIx × Addr)
  | .abs _ => []
  | .postM i m => [(i, nextIndex s i (readG s .m m))]
  | .preM _ _ => []
  | .postI i b => [(i, nextIndex s i (b.signExtend 16))]
  | .preI _ _ => []

/-- The shared side of a completed memory word: the index registers `ws` written iff some lane is
selected (10_state.md R42), nothing else but the sequencing. -/
structure MemoryStep (i : Instr) (ws : List (GIx × Addr)) (s t : State) : Prop where
  moved : (∃ n, laneSelected i s n = true) → IndexWrites ws s t
  still : (∀ n, laneSelected i s n = false) → AddressKept s t
  control : ControlKept s t
  stk : StacksKept s t
  machine : MachineKept s t
  errors : NoError s t
  flow : FallsThrough s.lpStk s t

/-! ## Control transfers (45_control_flow.md R326, R327) -/

/-- The word at `PC` is in a static delay slot (R326). -/
def StaticSlot (s : State) : Prop :=
  s.params.delaySlot = true ∧ ∃ w i, imWord s (s.pc - 1) = some w ∧ decode w = .ok i ∧
    ((∃ off c, i = .jump off c) ∨ (∃ off c, i = .call off c) ∨ ∃ c, i = .rts c)

/-- Check 2 of R327 fails the word: it stands at the terminal address of the top loop. -/
def AtLoopEnd (s : State) : Prop := ∃ e rest, s.lpStk = e :: rest ∧ s.pc = e.last

/-- Check 3 of R327: with delay slots, the word after it is at the terminal address. -/
def SlotAtLoopEnd (s : State) : Prop :=
  s.params.delaySlot = true ∧ ∃ e rest, s.lpStk = e :: rest ∧ s.pc + 1 = e.last

/-- No structural check of R327 holds for `JUMP`, `CALL`, `RTS`. -/
def TransferOk (s : State) : Prop := ¬StaticSlot s ∧ ¬AtLoopEnd s ∧ ¬SlotAtLoopEnd s

/-- No structural check of R327 holds for `DO`. -/
def LoopOk (s : State) : Prop := ¬StaticSlot s ∧ ¬AtLoopEnd s

/-- What a control transfer leaves unchanged besides the stacks and the program counter. -/
structure TransferFrame (s t : State) : Prop where
  lanes : LanesKept s t
  address : AddressKept s t
  cntr : t.cntr = s.cntr
  mstat : t.mstat = s.mstat
  stsStk : t.stsStk = s.stsStk
  machine : MachineKept s t
  errors : NoError s t

/-! ## Hazard classes by format (30_encoding.md R146, R147; 70_reset_and_hazards.md R461, R462) -/

/-- Formats with a load of data memory. -/
def loadFormat (id : Nat) : Bool :=
  (decide (0x54 ≤ id ∧ id ≤ 0x67) && id % 2 == 0) || decide (0x80 ≤ id ∧ id ≤ 0xA2)

/-- Formats with a store. -/
def storeFormat (id : Nat) : Bool :=
  (decide (0x54 ≤ id ∧ id ≤ 0x67) && id % 2 == 1) || decide (0xB0 ≤ id)

/-- Multiply-class formats. -/
def multFormat (id : Nat) : Bool :=
  decide (0x40 ≤ id ∧ id ≤ 0x46) || decide (0x90 ≤ id ∧ id ≤ 0xA2)

/-- The address a streak looks at: the loop's first word where the loop will repeat (R462). -/
def followingAddr (s : State) : Addr :=
  match s.lpStk with
  | [] => s.pc + 1
  | e :: _ =>
    if s.pc = e.last then
      if e.forever = true then e.first else if e.count = 1 then s.pc + 1 else e.first
    else s.pc + 1

/-- `next_is_multiply` (R462). -/
def MultiplyFollows (s : State) : Prop :=
  ∃ w j, imWord s (followingAddr s) = some w ∧ decode w = .ok j ∧ multFormat (formatOf j).id = true

/-! ## Runs -/

/-- `u` is about to execute the word at the terminal address `a` of the loop on top of the loop stack
`stk`: a word of program memory other than `RESET`, which clears the stack (46_system.md R365), and no
delay slot. -/
structure AtTerminal (a : Addr) (stk : List LoopEntry) (u : State) : Prop where
  stk : u.lpStk = stk
  pc : u.pc = a
  slot : u.dsPending = false
  running : u.halted = false
  word : ∃ w, imWord u a = some w ∧ decode w ≠ .ok .reset

/-- One pass of the body of a loop with terminal address `a`, from `s` to `t`: any number of steps that
leave the loop stack of `s` on the stack, perhaps under nested loops, then the step of the word at `a`. -/
def BodyPass (a : Addr) (s t : State) : Prop :=
  ∃ (n : Nat) (run : Nat → State), run 0 = s ∧
    (∀ k, k < n → step (run k) = .next (run (k + 1)) ∧ s.lpStk <:+ (run k).lpStk) ∧
    AtTerminal a s.lpStk (run n) ∧ step (run n) = .next t

/-- How often the body of a loop with this count runs: 0 stands for 65536 (R341). -/
def loopTimes (count : BitVec 16) : Nat := if count = 0 then 65536 else count.toNat

end Sys2Proof.Machine
end

