-- ==== Sys2Proof/Certificates/Slice0/Obligations.lean ====
section
/-! DEFINITION. The statements for the provers. Every statement quantifies over every state, so over every
choice of the open parameters (spec/00_scope.md R9); a statement about an instruction says that it
completes, what it writes, and that nothing else changes. -/

open Sys2Proof Sys2Proof.Machine

/-! ## Encoding (spec/30_encoding.md) -/

/-- R107, first half: for every well-formed instruction of every family, with every operand, decoding
its word gives it back. -/
def Obligations.DecodeOfEncode : Prop :=
  ∀ i : Instr, i.wf = true → decode (encode i) = .ok i

/-- R107, second half: every word the decoder accepts is the word of exactly the instruction it
answers, which is well formed: there are no don't-care bits (R164). -/
def Obligations.EncodeOfDecode : Prop :=
  ∀ (w : IWord) (i : Instr), decode w = .ok i → i.wf = true ∧ encode i = w

/-- R101, R104, R108: no word satisfies the match and mask of two formats; a word that decodes belongs to
the format of the instruction it decodes to, whose identifier is the `opc` field, or
0x80 + 0x10 x bshape + sub-operation code. -/
def Obligations.FormatTable : Prop :=
  (∀ (w : IWord) (i j : Instr), (formatOf i).holds w = true → (formatOf j).holds w = true →
    formatOf i = formatOf j) ∧
  (∀ (w : IWord) (i : Instr), decode w = .ok i →
    (formatOf i).holds w = true ∧
      (fld w 31 1 = 0 → (formatOf i).id = fld w 24 7) ∧
      (fld w 31 1 = 1 →
        (formatOf i).id = 0x80 + 0x10 * fld w 29 2 +
          (if fld w 29 2 = 0 then fld w 26 3 else if fld w 29 2 = 3 then fld w 28 1 else fld w 27 2)))

/-- Words written out from the spec's encodings decode to the instructions they stand for: the examples
of R158, R213, R235, R253, R274, R290, R330, R363, R384; the bytes of 20_memory.md R87; the two illegal
sentinel words of R165. -/
def Obligations.SpecWordsDecode : Prop :=
  decode 0x1000022F = .ok (.addRRR 0 1 2 .always) ∧
  decode 0x3000044F = .ok (.addC 0 2 4 .always) ∧
  decode 0x4000022F = .ok (.mpy .ss 0 1 2 .always) ∧
  decode 0x2C022FCF = .ok (.ashiftRRI 1 2 0xFC .always) ∧
  decode 0x4800269F = .ok (.cpVR .m 3 9 .always) ∧
  decode 0x58000C1F = .ok (.ldPostM 3 0 1 .always) ∧
  decode 0x080FFFD1 = .ok (.jump 0xFFFD .ne) ∧
  decode 0x03000000 = .ok .pushSts ∧
  decode 0x9BFEEFF1 = .ok (.xorLd 31 30 29 7 3 3 .ne) ∧
  decodeBytes [0x10, 0x00, 0x02, 0x2F] = some (.ok (.addRRR 0 1 2 .always), []) ∧
  decode 0xFFFFFFFF = .error .nonzeroPad ∧ decode 0x00000000 = .error .unassignedOpcode

/-- 30_encoding.md R152, R153: the encoder emits, for every record that is not a pseudo-op, exactly one
word at the record's address: the word of a well-formed instruction, or the error word with an `ERROR`
listing line and one more counted error at the record's line and address. Second clause: a record whose
key has no format, one with an unknown mnemonic among them, is an encoding error whatever else it
carries. Which keys have a format is the model's `formatsOf`, the coarse lookup that is the model's choice
(log 10: R381 and R173 class a bundle such as `DIVS || LD` differently), so the class in this clause is
the model's choice too, but for an unknown mnemonic (60_exceptions.md R405). -/
def Obligations.EncoderEmitsOneWord : Prop :=
  (∀ (out : EncoderOutput) (r : InstructionRecord), r.body ≠ .pseudoOp →
    (∃ i, i.wf = true ∧ decode (encode i) = .ok i ∧
      (encodeRecord out r).words = out.words ++ [(r.addr, encode i)] ∧
      (encodeRecord out r).errCnt = out.errCnt ∧ (encodeRecord out r).errLog = out.errLog) ∨
    (∃ cls token line, (encodeRecord out r).words = out.words ++ [(r.addr, 0xFFFFFFFF)] ∧
      (encodeRecord out r).errCnt = out.errCnt + 1 ∧
      (encodeRecord out r).errLog = out.errLog ++ [⟨cls, r.line, r.addr, token⟩] ∧
      (encodeRecord out r).listing = out.listing ++ [line] ∧ line.formatTag = "ERROR")) ∧
  (∀ (out : EncoderOutput) (r : InstructionRecord) (h : Operation) (sibs : List Operation),
    r.body = .operation h sibs → (formatsOf h sibs = [] ∨ h.mnemonic = .unknown) →
    ∃ token, (encodeRecord out r).errLog = out.errLog ++ [⟨.enc, r.line, r.addr, token⟩])

/-! ## Reset and the invariant -/

/-- 70_reset_and_hazards.md R440: every row of its table: what hard reset leaves, the memories and the
host's breakpoints untouched. The state after reset is hard reset with nothing loaded. -/
def Obligations.ResetValues : Prop :=
  (∀ (s r : State), r = hardReset s →
    (∀ n k, getR (r.lane n) k = 0) ∧ (∀ n k, getAcc (r.lane n) k = 0) ∧
    (∀ g k, readG r g k = 0) ∧ (∀ n, readCtl r n .dpid = BitVec.ofNat 12 n.val) ∧
    r.cntr = 0 ∧ (∀ n, (r.lane n).astatR = 0 ∧ (r.lane n).astatI = 0 ∧ (r.lane n).astatC = 0) ∧
    r.mstat = 0 ∧ r.sstat = 0 ∧ r.pcStk = [] ∧ r.lpStk = [] ∧ r.stsStk = [] ∧
    r.pc = s.params.entry ∧ r.dsPending = false ∧ r.dsTarget = 0 ∧ r.prevStore = false ∧
    r.cycles = 0 ∧ r.errCnt = 0 ∧ r.errLog = [] ∧ r.halted = false ∧
    (∀ n a, dataWord r n a = dataWord s n a) ∧ r.im = s.im ∧ r.params = s.params) ∧
  (∀ h : Stepper, (transact h .hardReset).1.machine = hardReset h.machine ∧
    (transact h .hardReset).1.breakpoints = h.breakpoints) ∧
  (∀ p : Params, hardReset (State.resetWith p) = State.resetWith p) ∧
  State.reset.pc = 0x0000

/-- The invariant holds after reset with any legal parameters. -/
def Obligations.InvariantAtReset : Prop :=
  (∀ p : Params, p.legal = true → (State.resetWith p).Inv) ∧ State.reset.Inv

/-- Every step keeps the invariant, from every state that has it: canonical memories inside their
ranges, stacks of at most eight entries, no delay-slot state where there are no delay slots, the
loop-underflow bit clear, the error tally equal to the log. -/
def Obligations.StepKeepsInvariant : Prop :=
  ∀ s t : State, s.Inv → step s = .next t → t.Inv

/-! ## The step (spec/45_control_flow.md R340, R341) -/

/-- Every step of every state has a next state: nothing traps, nothing is refused
(60_exceptions.md R400). R340 steps 1 and 2: a halted block does nothing; a block with no word at `PC`
sets `halted` and changes nothing else. -/
def Obligations.StepAlwaysCompletes : Prop :=
  ∀ s : State, (∃ t, step s = .next t) ∧ (s.halted = true → step s = .next s) ∧
    (s.halted = false → imWord s s.pc = none → step s = .next { s with halted := true })

/-- R340: a block that is not halted, with a word at `PC` that decodes, runs that instruction; there
is nothing around it. -/
def Obligations.StepRunsDecodedInstruction : Prop :=
  ∀ (s : State) (w : IWord) (i : Instr), s.halted = false → imWord s s.pc = some w →
    decode w = .ok i → step s = exec i s

/-- 30_encoding.md R160: executing an illegal word raises `E_SHAPE(a, w)`: the word has no effect, the
error is counted and logged, and the program goes on. -/
def Obligations.IllegalWordIsShapeError : Prop :=
  ∀ (s : State) (w : IWord), s.halted = false → imWord s s.pc = some w →
    (∀ i, decode w ≠ .ok i) → ∃ t, step s = .next t ∧ ErrorStep .shape s t ∧
      t.errLog = s.errLog ++ [⟨.shape, s.pc, .word w⟩]

/-- The four cases of `NextCode` in R341, in their order, on the loop stack the word left. -/
def Obligations.NextCodeCases : Prop :=
  ∀ (s : State) (taken : Option Addr),
    (nextCode s true taken).pc = s.dsTarget ∧ (nextCode s true taken).dsPending = false ∧
    (nextCode s true taken).lpStk = s.lpStk ∧
    (∀ target, s.params.delaySlot = true →
      (nextCode s false (some target)).pc = s.pc + 1 ∧
      (nextCode s false (some target)).dsPending = true ∧
      (nextCode s false (some target)).dsTarget = target ∧
      (nextCode s false (some target)).lpStk = s.lpStk) ∧
    (∀ target, s.params.delaySlot = false →
      (nextCode s false (some target)).pc = target ∧
      (nextCode s false (some target)).lpStk = s.lpStk) ∧
    (∀ e rest, s.lpStk = e :: rest → s.pc = e.last → e.forever = true →
      (nextCode s false none).pc = e.first ∧ (nextCode s false none).lpStk = s.lpStk) ∧
    (∀ e rest, s.lpStk = e :: rest → s.pc = e.last → e.forever = false → e.count - 1 = 0 →
      (nextCode s false none).pc = s.pc + 1 ∧ (nextCode s false none).lpStk = rest) ∧
    (∀ e rest, s.lpStk = e :: rest → s.pc = e.last → e.forever = false → e.count - 1 ≠ 0 →
      (nextCode s false none).pc = e.first ∧
      (nextCode s false none).lpStk = { e with count := e.count - 1 } :: rest) ∧
    ((∀ e rest, s.lpStk = e :: rest → s.pc ≠ e.last) →
      (nextCode s false none).pc = s.pc + 1 ∧ (nextCode s false none).lpStk = s.lpStk)

/-- R341: "A body with count `N` (1..65535) executes `N` times; count 0 executes 65536 times." `start k`
is the state before pass `k` of the body; each pass is any steps of the program, with nested loops or
transfers or errors in it, up to and with the word at the terminal address, whatever word but `RESET` that
is (a transfer or a `DO` there is an `E_STRUCT` no-op). Before pass `k` the count is `k` lower, every pass
but the first starts at the loop's first word, and after pass `N` the entry is popped and the program goes
on behind the loop. -/
def Obligations.LoopRunsCountTimes : Prop :=
  ∀ (start : Nat → State) (e : LoopEntry) (rest : List LoopEntry), (start 0).lpStk = e :: rest →
    e.forever = false → (∀ k, k < loopTimes e.count → BodyPass e.last (start k) (start (k + 1))) →
    (∀ k, k < loopTimes e.count →
      (start k).lpStk = { e with count := e.count - BitVec.ofNat 16 k } :: rest ∧
      (0 < k → (start k).pc = e.first)) ∧
    (start (loopTimes e.count)).lpStk = rest ∧
    (start (loopTimes e.count)).pc = e.last + 1

/-! ## Rules over all instructions -/

/-- 10_state.md R44: a lane that the condition does not select is unmodified: registers, accumulators,
flags, data memory. -/
def Obligations.UnselectedLaneUnchanged : Prop :=
  ∀ (i : Instr) (s t : State) (n : LaneId), exec i s = .next t → laneSelected i s n = false →
    t.lane n = s.lane n

/-- 10_state.md R23, 44_move_load_store.md R296: no instruction moves data from one lane into another
within a step: what a lane becomes depends on that lane and on shared state only. -/
def Obligations.LanesDoNotInterfere : Prop :=
  ∀ (i : Instr) (s u s' u' : State) (n : LaneId), SameShared s u → u.lane n = s.lane n →
    exec i s = .next s' → exec i u = .next u' → u'.lane n = s'.lane n

/-- 60_exceptions.md R401, R407, 47_multifunction.md R389: a step that records an error is the state
before it but for the record, one cycle, `prev_store` and the sequencing of a `NOP`; whatever the
word, of one operation or of three. -/
def Obligations.ErrorsDiscardTheWord : Prop :=
  ∀ s t : State, step s = .next t → t.errCnt ≠ s.errCnt → ∃ cls, ErrorStep cls s t

/-- 20_memory.md R71, R96: no instruction writes program memory; the parameters and `halted` stay too. -/
def Obligations.ProgramMemoryNeverWritten : Prop :=
  ∀ (i : Instr) (s t : State), exec i s = .next t → MachineKept s t

/-- 10_state.md R35: only a whole-bundle write, `POP STS` or `RESET` clears a sticky bit. -/
def Obligations.StickyBitsStay : Prop :=
  ∀ (i : Instr) (s t : State) (n : LaneId) (f : Flag), exec i s = .next t →
    f = .avs ∨ f = .mvs ∨ f = .svs →
    (∀ ctl rx c, i = .cpCR ctl rx c → ctl ≠ .astatR ∧ ctl ≠ .astatI ∧ ctl ≠ .astatC) →
    (∀ ctl imm, i = .ldCI ctl imm → ctl ≠ .astatR ∧ ctl ≠ .astatI ∧ ctl ≠ .astatC) →
    i ≠ .popSts → i ≠ .reset →
    (flagOf (s.lane n).astatR f = true → flagOf (t.lane n).astatR f = true) ∧
    (flagOf (s.lane n).astatI f = true → flagOf (t.lane n).astatI f = true) ∧
    (flagOf (s.lane n).astatC f = true → flagOf (t.lane n).astatC f = true)

/-- 70_reset_and_hazards.md R460 to R462: the cycles and `prev_store` of every word that raised no
error, by the class of its format. -/
def Obligations.CycleAccounting : Prop :=
  ∀ (i : Instr) (s t : State), exec i s = .next t → t.errCnt = s.errCnt →
    t.prevStore = storeFormat (formatOf i).id ∧
    ∃ afterStore endOfStreak : Nat,
      t.cycles = s.cycles + 1 + afterStore + endOfStreak ∧
      afterStore = (if loadFormat (formatOf i).id = true ∧ s.prevStore = true then 1 else 0) ∧
      (multFormat (formatOf i).id = false → endOfStreak = 0) ∧
      (multFormat (formatOf i).id = true → MultiplyFollows s → endOfStreak = 0) ∧
      (multFormat (formatOf i).id = true → ¬MultiplyFollows s → endOfStreak = s.params.macTail)

/-- 46_system.md R366: after `PUSH STS` on a stack that is not full, any steps that never go below the
pushed entry and end with it on top, then `POP STS`: the flag bundles of all lanes and `MSTAT` are
those of before the `PUSH STS`. (The rule's words, "leaves `STSSP` where it was", would also admit
steps that pop the entry and push another one; those are left out: log 14.) -/
def Obligations.StatusRoundTrip : Prop :=
  ∀ (s t u : State) (run : Nat → State) (n : Nat), s.stsStk.length < 8 →
    exec .pushSts s = .next t → run 0 = t →
    (∀ k, k < n → step (run k) = .next (run (k + 1))) →
    (∀ k, k ≤ n → s.stsStk.length + 1 ≤ (run k).stsStk.length) →
    (run n).stsStk.length = s.stsStk.length + 1 →
    exec .popSts (run n) = .next u →
    u.mstat = s.mstat ∧ u.stsStk = s.stsStk ∧
      ∀ l, (u.lane l).astatR = (s.lane l).astatR ∧ (u.lane l).astatI = (s.lane l).astatI ∧
        (u.lane l).astatC = (s.lane l).astatC

/-- 40_alu.md R187: after `SUB` the conditions compare the operands as signed numbers, also where the
difference overflows. -/
def Obligations.SubtractThenCompare : Prop :=
  ∀ (rd rx ry : Reg) (s : State), ∃ t, exec (.subRRR rd rx ry .always) s = .next t ∧ ∀ n,
    let x := (getR (s.lane n) rx).toInt
    let y := (getR (s.lane n) ry).toInt
    let f := (t.lane n).astatR
    condHolds .eq f = decide (x = y) ∧ condHolds .ne f = decide (x ≠ y) ∧
    condHolds .lt f = decide (x < y) ∧ condHolds .le f = decide (x ≤ y) ∧
    condHolds .gt f = decide (y < x) ∧ condHolds .ge f = decide (y ≤ x)

/-! ## Shared operations -/

/-- 30_encoding.md R112: the code and the predicate of every condition; codes 10, 11, 14 are reserved. -/
def Obligations.ConditionTable : Prop :=
  ((List.range 16).map Cond.ofCode =
    [some .eq, some .ne, some .gt, some .le, some .lt, some .ge, some .av, some .notAv, some .ac,
      some .notAc, none, none, some .mv, some .notMv, none, some .always]) ∧
  ∀ b : FlagBundle,
    (condHolds .eq b = true ↔ b.getLsbD 0 = true) ∧ (condHolds .ne b = true ↔ b.getLsbD 0 = false) ∧
    (condHolds .lt b = true ↔ b.getLsbD 1 ≠ b.getLsbD 2) ∧
    (condHolds .ge b = true ↔ b.getLsbD 1 = b.getLsbD 2) ∧
    (condHolds .le b = true ↔ (b.getLsbD 1 ≠ b.getLsbD 2 ∨ b.getLsbD 0 = true)) ∧
    (condHolds .gt b = true ↔ (b.getLsbD 1 = b.getLsbD 2 ∧ b.getLsbD 0 = false)) ∧
    (condHolds .av b = true ↔ b.getLsbD 2 = true) ∧
    (condHolds .notAv b = true ↔ b.getLsbD 2 = false) ∧
    (condHolds .ac b = true ↔ b.getLsbD 3 = true) ∧
    (condHolds .notAc b = true ↔ b.getLsbD 3 = false) ∧
    (condHolds .mv b = true ↔ b.getLsbD 6 = true) ∧
    (condHolds .notMv b = true ↔ b.getLsbD 6 = false) ∧ condHolds .always b = true

/-- 40_alu.md R182: the adder and the subtracter: the 13-bit sum, its low 12 bits, its carry, signed
overflow; with carry in 1 the subtracter gives `x - y`, and carry means no borrow. -/
def Obligations.AdderRule : Prop :=
  ∀ (x y : DWord) (c : Bool),
    (add12 x y c).r.toNat = (x.toNat + y.toNat + c.toNat) % 2 ^ 12 ∧
    ((add12 x y c).carry = true ↔ (x.toNat + y.toNat + c.toNat) / 2 ^ 12 = 1) ∧
    ((add12 x y c).overflow = true ↔
      x.getLsbD 11 = y.getLsbD 11 ∧ (add12 x y c).r.getLsbD 11 ≠ x.getLsbD 11) ∧
    (sub12 x y c).r = (add12 x (~~~y) c).r ∧ (sub12 x y c).carry = (add12 x (~~~y) c).carry ∧
    ((sub12 x y c).overflow = true ↔
      x.getLsbD 11 ≠ y.getLsbD 11 ∧ (sub12 x y c).r.getLsbD 11 ≠ x.getLsbD 11) ∧
    (sub12 x y true).r = x - y ∧ ((sub12 x y true).carry = true ↔ y.toNat ≤ x.toNat)

/-- 40_alu.md R184 and 10_state.md R35: writing a set of status flags: each named flag takes the last
value given, a 1 also sets its sticky partner, everything else keeps its value. -/
def Obligations.FlagWriteRule : Prop :=
  ∀ (b : FlagBundle) (f g : Flag) (v : Bool) (ws : FlagWrites),
    setFlags b [] = b ∧ setFlags b ((f, v) :: ws) = setFlags (setFlags b [(f, v)]) ws ∧
    flagOf (setFlags b [(f, v)]) g =
      if g = f then v
      else if (f = .av ∧ g = .avs ∨ f = .mv ∧ g = .mvs ∨ f = .sv ∧ g = .svs) ∧ v = true then true
      else flagOf b g

/-- 42_mac.md R233: accumulate, round, saturate, and `MV`, which says that the accumulator written is
not the sign extension of its low 24 bits. -/
def Obligations.AccumulateRule : Prop :=
  ∀ (kind : MacKind) (acc : AccWord) (p : Int) (rnd : Bool),
    let n := macExact kind acc p rnd
    n = (match kind with | .mpy => p | .mac => acc.toInt + p | .mas => acc.toInt - p) +
      (if rnd then 0x800 else 0) ∧
    (macMv n = true ↔ n < -2 ^ 23 ∨ n > 2 ^ 23 - 1) ∧
    (saturate32 n).toInt = (if n > 2 ^ 31 - 1 then 2 ^ 31 - 1 else if n < -2 ^ 31 then -2 ^ 31 else n) ∧
    (macMv n = true ↔ saturate32 n ≠ ((saturate32 n).extractLsb' 0 24).signExtend 32)

/-- 43_shift_divide.md R251, R252: the shift amount of both forms and its clamp, the shifted value and
the flags `SS` and `SV`. -/
def Obligations.ShiftRule : Prop :=
  (∀ (ln : LaneState) (ry : Reg) (b : BitVec 8),
    shiftAmount (.reg ry) ln = max (-12) (min 12 (getR ln ry).toInt) ∧
    shiftAmount (.imm b) ln = max (-12) (min 12 b.toInt)) ∧
  (∀ (x : DWord) (n : Int), 0 ≤ n →
    (shiftCompute .arith x n).r = BitVec.ofInt 12 (x.toInt * 2 ^ n.toNat) ∧
    (shiftCompute .arith x n).flags =
      [(.ss, x.getLsbD 11), (.sv, decide ((shiftCompute .arith x n).r.toInt ≠ x.toInt * 2 ^ n.toNat))] ∧
    (shiftCompute .logic x n).r.toNat = x.toNat * 2 ^ n.toNat % 2 ^ 12 ∧
    (shiftCompute .logic x n).flags =
      [(.ss, x.getLsbD 11), (.sv, decide (2 ^ 12 ≤ x.toNat * 2 ^ n.toNat))]) ∧
  (∀ (x : DWord) (n : Int), n < 0 →
    (shiftCompute .arith x n).r.toInt = x.toInt / 2 ^ (-n).toNat ∧
    (shiftCompute .arith x n).flags = [(.ss, x.getLsbD 11), (.sv, false)] ∧
    (shiftCompute .logic x n).r.toNat = x.toNat / 2 ^ (-n).toNat ∧
    (shiftCompute .logic x n).flags = [(.ss, x.getLsbD 11), (.sv, false)])

/-- 10_state.md R25: the accumulator views: a write replaces exactly the bits of its view, a read of H
is sign-extended. -/
def Obligations.AccumulatorViews : Prop :=
  ∀ (a : AccWord) (x : DWord),
    readView .h a = (a.extractLsb' 24 8).signExtend 12 ∧
    readView .m a = a.extractLsb' 12 12 ∧ readView .l a = a.extractLsb' 0 12 ∧
    (∀ k, (writeView .h a x).getLsbD k =
      if 24 ≤ k ∧ k < 32 then x.getLsbD (k - 24) else a.getLsbD k) ∧
    (∀ k, (writeView .m a x).getLsbD k =
      if 12 ≤ k ∧ k < 24 then x.getLsbD (k - 12) else a.getLsbD k) ∧
    (∀ k, (writeView .l a x).getLsbD k = if k < 12 then x.getLsbD k else a.getLsbD k)

/-- 20_memory.md R76 to R78: a read returns the last value written at that lane and address, a write
leaves every other word alone. -/
def Obligations.MemoryReadsLastWrite : Prop :=
  ∀ (l : LaneId) (mem : Memory 12) (a b : Addr) (v : DWord),
    dmRead l (dmWrite mem a v) b = if b = a then v else dmRead l mem b

/-- 20_memory.md R84: the post-modify update, linear or circular with one correction. -/
def Obligations.NextIndexRule : Prop :=
  ∀ (s : State) (k : GIx) (mod : Addr),
    let i := readG s .i k
    let l := readG s .l k
    let b := readG s .b k
    let t : Int := i.toNat + mod.toInt
    (l = 0 → nextIndex s k mod = i + mod) ∧
    (l ≠ 0 → (b.toNat : Int) + l.toNat ≤ t → nextIndex s k mod = BitVec.ofInt 16 (t - l.toNat)) ∧
    (l ≠ 0 → t < (b.toNat : Int) + l.toNat → t < b.toNat →
      nextIndex s k mod = BitVec.ofInt 16 (t + l.toNat)) ∧
    (l ≠ 0 → t < (b.toNat : Int) + l.toNat → (b.toNat : Int) ≤ t →
      nextIndex s k mod = BitVec.ofInt 16 t)

/-- 70_reset_and_hazards.md R455: a circular buffer keeps its index inside `[B, B+L)` where the index
starts inside, the modifier is at most `L` in magnitude and the buffer ends inside the address space. -/
def Obligations.CircularBufferStaysInside : Prop :=
  ∀ (s : State) (k : GIx) (mod : Addr),
    let i := (readG s .i k).toNat
    let l := (readG s .l k).toNat
    let b := (readG s .b k).toNat
    b ≤ i → i < b + l → b + l ≤ 65536 → mod.toInt ≤ l → -(l : Int) ≤ mod.toInt →
    b ≤ (nextIndex s k mod).toNat ∧ (nextIndex s k mod).toNat < b + l

/-- 20_memory.md R80 to R83, R85: the effective addresses of the five modes; bit reversal only with
`MSTAT.BREV`, only post-modify, only `I0`..`I3`. -/
def Obligations.EffectiveAddresses : Prop :=
  ∀ (s : State) (k j : GIx) (a : Addr) (imm : BitVec 8),
    effAddr s (.abs a) = a ∧
    effAddr s (.preM k j) = readG s .i k + readG s .m j ∧
    effAddr s (.preI k imm) = readG s .i k + imm.signExtend 16 ∧
    effAddr s (.postI k imm) = effAddr s (.postM k j) ∧
    (s.mstat = 0 → effAddr s (.postM k j) = readG s .i k) ∧
    (4 ≤ k.val → effAddr s (.postM k j) = readG s .i k) ∧
    (s.mstat = 1 → k.val < 4 → ∀ b, b < 16 →
      (effAddr s (.postM k j)).getLsbD b = (readG s .i k).getLsbD (15 - b))

/-! ## Integer ALU (spec/40_alu.md) -/

/-- R185 to R191: `ADD ADDC SUB SUBB AND OR XOR`, register and immediate forms. -/
def Obligations.AluInstructions : Prop :=
  ∀ (op : AluOp) (rd rx : Reg) (y : YOperand) (c : Cond) (s : State),
    ∃ t, exec (realAlu op rd rx y c) s = .next t ∧ OnlyLanes s t ∧ ∀ n,
      (condHolds c (s.lane n).astatR = false → t.lane n = s.lane n) ∧
      (condHolds c (s.lane n).astatR = true →
        let x := getR (s.lane n) rx
        let v := match y with
          | .reg ry => getR (s.lane n) ry
          | .imm b => b.signExtend 12
        let ac := flagOf (s.lane n).astatR .ac
        getR (t.lane n) rd = aluValue op x v ac ∧
        AluFlags (aluValue op x v ac) (aluOverflow op x v ac) (aluCarry op x v ac)
          (s.lane n).astatR (t.lane n).astatR ∧
        LaneFrame [rd] [] aluFlagSet [] [] [] s t n)

/-- R192 to R194: `NOT`, `ABS`, `NEG`. -/
def Obligations.UnaryAluInstructions : Prop :=
  ∀ (rd rx : Reg) (c : Cond) (s : State),
    (∃ t, exec (.notRR rd rx c) s = .next t ∧ OnlyLanes s t ∧ ∀ n,
      (condHolds c (s.lane n).astatR = false → t.lane n = s.lane n) ∧
      (condHolds c (s.lane n).astatR = true →
        getR (t.lane n) rd = ~~~(getR (s.lane n) rx) ∧
        AluFlags (~~~(getR (s.lane n) rx)) false false (s.lane n).astatR (t.lane n).astatR ∧
        LaneFrame [rd] [] aluFlagSet [] [] [] s t n)) ∧
    (∃ t, exec (.absRR rd rx c) s = .next t ∧ OnlyLanes s t ∧ ∀ n,
      (condHolds c (s.lane n).astatR = false → t.lane n = s.lane n) ∧
      (condHolds c (s.lane n).astatR = true →
        let x := getR (s.lane n) rx
        let r := if x.msb then -x else x
        getR (t.lane n) rd = r ∧
        AluFlags r (decide (x = 0x800)) false (s.lane n).astatR (t.lane n).astatR ∧
        flagOf (t.lane n).astatR .asn = x.msb ∧
        LaneFrame [rd] [] (.asn :: aluFlagSet) [] [] [] s t n)) ∧
    (∃ t, exec (.negRR rd rx c) s = .next t ∧ OnlyLanes s t ∧ ∀ n,
      (condHolds c (s.lane n).astatR = false → t.lane n = s.lane n) ∧
      (condHolds c (s.lane n).astatR = true →
        let x := getR (s.lane n) rx
        getR (t.lane n) rd = -x ∧
        AluFlags (-x) (decide (x = 0x800)) (decide (x = 0)) (s.lane n).astatR (t.lane n).astatR ∧
        LaneFrame [rd] [] aluFlagSet [] [] [] s t n))

/-! ## Complex ALU (spec/41_complex.md) -/

/-- R213 to R215: `ADD.C`, `SUB.C`, `CONJ.C`: both parts, the three bundles, no carry between the parts;
`CONJ.C` passes the real part through and negates the imaginary part. -/
def Obligations.ComplexAluInstructions : Prop :=
  (∀ (op : AluOp) (i : Instr) (rd rx ry : Reg) (c : Cond) (s : State),
    (op = .add ∧ i = .addC rd rx ry c ∨ op = .sub ∧ i = .subC rd rx ry c) → i.wf = true →
    ∃ t, exec i s = .next t ∧ OnlyLanes s t ∧ ∀ n,
      (condHolds c (s.lane n).astatC = false → t.lane n = s.lane n) ∧
      (condHolds c (s.lane n).astatC = true →
        let xr := getR (s.lane n) rx
        let xi := getR (s.lane n) (oddOf rx)
        let yr := getR (s.lane n) ry
        let yi := getR (s.lane n) (oddOf ry)
        let re := aluValue op xr yr false
        let im := aluValue op xi yi false
        getR (t.lane n) rd = re ∧ getR (t.lane n) (oddOf rd) = im ∧
        AluFlags re (aluOverflow op xr yr false) (aluCarry op xr yr false)
          (s.lane n).astatR (t.lane n).astatR ∧
        AluFlags im (aluOverflow op xi yi false) (aluCarry op xi yi false)
          (s.lane n).astatI (t.lane n).astatI ∧
        CombinedFlags re im (aluOverflow op xr yr false) (aluOverflow op xi yi false)
          (aluCarry op xr yr false) (aluCarry op xi yi false) (s.lane n).astatC (t.lane n).astatC ∧
        LaneFrame [rd, oddOf rd] [] aluFlagSet aluFlagSet aluFlagSet [] s t n)) ∧
  (∀ (rd rx : Reg) (c : Cond) (s : State), (Instr.conjC rd rx c).wf = true →
    ∃ t, exec (.conjC rd rx c) s = .next t ∧ OnlyLanes s t ∧ ∀ n,
      (condHolds c (s.lane n).astatC = false → t.lane n = s.lane n) ∧
      (condHolds c (s.lane n).astatC = true →
        let xr := getR (s.lane n) rx
        let xi := getR (s.lane n) (oddOf rx)
        getR (t.lane n) rd = xr ∧ getR (t.lane n) (oddOf rd) = -xi ∧
        AluFlags xr false false (s.lane n).astatR (t.lane n).astatR ∧
        AluFlags (-xi) (decide (xi = 0x800)) (decide (xi = 0)) (s.lane n).astatI (t.lane n).astatI ∧
        CombinedFlags xr (-xi) false (decide (xi = 0x800)) false (decide (xi = 0))
          (s.lane n).astatC (t.lane n).astatC ∧
        LaneFrame [rd, oddOf rd] [] aluFlagSet aluFlagSet aluFlagSet [] s t n))

/-- R216, R217: `POLAR.C` and `RECT.C`: the pair receives the parameter function of the source pair,
`AV` of the combined bundle is the only flag written. Nothing is said of the functions (log 3). -/
def Obligations.ComplexConversions : Prop :=
  ∀ (f : DWord → DWord → DWord × DWord × Bool) (i : Instr) (rd rx : Reg) (c : Cond) (s : State),
    (f = Config.polar ∧ i = .polarC rd rx c ∨ f = Config.rect ∧ i = .rectC rd rx c) → i.wf = true →
    ∃ t, exec i s = .next t ∧ OnlyLanes s t ∧ ∀ n,
      (condHolds c (s.lane n).astatC = false → t.lane n = s.lane n) ∧
      (condHolds c (s.lane n).astatC = true →
        let o := f (getR (s.lane n) rx) (getR (s.lane n) (oddOf rx))
        getR (t.lane n) rd = o.1 ∧ getR (t.lane n) (oddOf rd) = o.2.1 ∧
        flagOf (t.lane n).astatC .av = o.2.2 ∧
        flagOf (t.lane n).astatC .avs = (flagOf (s.lane n).astatC .avs || o.2.2) ∧
        LaneFrame [rd, oddOf rd] [] [] [] [.av, .avs] [] s t n)

/-! ## Multiplier (spec/42_mac.md) -/

/-- R235 to R237: `MPY`, `MAC`, `MAS` with every option. -/
def Obligations.RealMultiply : Prop :=
  ∀ (kind : MacKind) (o : MacOpt) (acc : AccIx) (rx ry : Reg) (c : Cond) (s : State),
    ∃ t, exec (realMac kind o acc rx ry c) s = .next t ∧ OnlyLanes s t ∧ ∀ n,
      (condHolds c (s.lane n).astatR = false → t.lane n = s.lane n) ∧
      (condHolds c (s.lane n).astatR = true →
        MacDone kind o acc rx ry s t n ∧ LaneFrame [] [acc] [.mv, .mvs] [] [] [] s t n)

/-- R238 to R240: `MPY.C`, `MAC.C`, `MAS.C`, with and without conjugation of the second source. -/
def Obligations.ComplexMultiply : Prop :=
  ∀ (kind : MacKind) (conj : Bool) (o : MacOpt) (acc : AccIx) (rx ry : Reg) (c : Cond) (s : State),
    (complexMac kind conj o acc rx ry c).wf = true →
    ∃ t, exec (complexMac kind conj o acc rx ry c) s = .next t ∧ OnlyLanes s t ∧ ∀ n,
      (condHolds c (s.lane n).astatC = false → t.lane n = s.lane n) ∧
      (condHolds c (s.lane n).astatC = true →
        let xr := macX o (getR (s.lane n) rx)
        let xi := macX o (getR (s.lane n) (oddOf rx))
        let yr := macY o (getR (s.lane n) ry)
        let yi := if conj then -macY o (getR (s.lane n) (oddOf ry))
          else macY o (getR (s.lane n) (oddOf ry))
        let re := macResult kind o (getAcc (s.lane n) acc) (xr * yr - xi * yi)
        let im := macResult kind o (getAcc (s.lane n) (oddAcc acc)) (xr * yi + xi * yr)
        Saturated re (getAcc (t.lane n) acc) ∧ Saturated im (getAcc (t.lane n) (oddAcc acc)) ∧
        MvFlags (mvOf re) (s.lane n).astatR (t.lane n).astatR ∧
        MvFlags (mvOf im) (s.lane n).astatI (t.lane n).astatI ∧
        MvFlags (mvOf re || mvOf im) (s.lane n).astatC (t.lane n).astatC ∧
        LaneFrame [] [acc, oddAcc acc] [.mv, .mvs] [.mv, .mvs] [.mv, .mvs] [] s t n)

/-! ## Shifter and divide steps (spec/43_shift_divide.md) -/

/-- R253, R254: `ASHIFT`, `LSHIFT`, register and immediate forms. -/
def Obligations.ShiftInstructions : Prop :=
  ∀ (kind : ShiftKind) (rd rx : Reg) (y : YOperand) (c : Cond) (s : State),
    ∃ t, exec (realShift kind rd rx y c) s = .next t ∧ OnlyLanes s t ∧ ∀ n,
      (condHolds c (s.lane n).astatR = false → t.lane n = s.lane n) ∧
      (condHolds c (s.lane n).astatR = true →
        ShiftDone kind rd rx y s t n ∧ LaneFrame [rd] [] shiftFlagSet [] [] [] s t n)

/-- R258, R259: `DIVS`, `DIVQ`: the register and `AQ` receive the parameter function of the sources and
the old `AQ`; no other flag is written. Nothing is said of the functions (log 3). -/
def Obligations.DivideSteps : Prop :=
  ∀ (f : DWord → DWord → Bool → DWord × Bool) (i : Instr) (rd rx ry : Reg) (c : Cond) (s : State),
    (f = Config.divs ∧ i = .divsRRR rd rx ry c ∨ f = Config.divq ∧ i = .divqRRR rd rx ry c) →
    ∃ t, exec i s = .next t ∧ OnlyLanes s t ∧ ∀ n,
      (condHolds c (s.lane n).astatR = false → t.lane n = s.lane n) ∧
      (condHolds c (s.lane n).astatR = true →
        let o := f (getR (s.lane n) rx) (getR (s.lane n) ry) (flagOf (s.lane n).astatR .aq)
        getR (t.lane n) rd = o.1 ∧ flagOf (t.lane n).astatR .aq = o.2 ∧
        LaneFrame [rd] [] [.aq] [] [] [] s t n)

/-! ## Moves and immediate loads (spec/44_move_load_store.md) -/

/-- R271, R272, R275, R278, R280, R283: the moves into a D-class register: `CP Rd, Rx`,
`CP Rd, ACCk.v`, `CP Rd, G`, `CP Rd, C` with each control register as it reads, `LD Rd, #12`. -/
def Obligations.MovesIntoRegisters : Prop :=
  (∀ (i : Instr) (rd : Reg) (c : Cond) (value : State → LaneId → DWord) (s : State),
    ((∃ rx, i = .cpRR rd rx c ∧ value = fun s n => getR (s.lane n) rx) ∨
      (∃ v k, i = .cpRV rd v k c ∧ value = fun s n => readView v (getAcc (s.lane n) k)) ∨
      (∃ g k, i = .cpRG rd g k c ∧ value = fun s _ => (readG s g k).extractLsb' 0 12) ∨
      (∃ ctl, i = .cpRC rd ctl c ∧ value = fun s n => readCtl s n ctl) ∨
      (∃ imm, i = .ldRI rd imm c ∧ value = fun _ _ => imm)) →
    ∃ t, exec i s = .next t ∧ OnlyLanes s t ∧ ∀ n,
      (condHolds c (s.lane n).astatR = false → t.lane n = s.lane n) ∧
      (condHolds c (s.lane n).astatR = true →
        getR (t.lane n) rd = value s n ∧ LaneFrame [rd] [] [] [] [] [] s t n)) ∧
  (∀ (s : State) (n : LaneId),
    readCtl s n .cntr = s.cntr.extractLsb' 0 12 ∧ readCtl s n .mstat = s.mstat.zeroExtend 12 ∧
    readCtl s n .sstat = s.sstat.zeroExtend 12 ∧ readCtl s n .astatR = (s.lane n).astatR ∧
    readCtl s n .astatI = (s.lane n).astatI ∧ readCtl s n .astatC = (s.lane n).astatC ∧
    (readCtl s n .dpid).toNat = n.val)

/-- R273: `CP.C`. -/
def Obligations.ComplexMove : Prop :=
  ∀ (rd rx : Reg) (c : Cond) (s : State), (Instr.cpC rd rx c).wf = true →
    ∃ t, exec (.cpC rd rx c) s = .next t ∧ OnlyLanes s t ∧ ∀ n,
      (condHolds c (s.lane n).astatC = false → t.lane n = s.lane n) ∧
      (condHolds c (s.lane n).astatC = true →
        getR (t.lane n) rd = getR (s.lane n) rx ∧
        getR (t.lane n) (oddOf rd) = getR (s.lane n) (oddOf rx) ∧
        LaneFrame [rd, oddOf rd] [] [] [] [] [] s t n)

/-- R274, R276: the moves into an accumulator: `CP ACCk.v, Rx` and `CP ACCd, ACCs`. -/
def Obligations.MovesIntoAccumulators : Prop :=
  ∀ (i : Instr) (k : AccIx) (c : Cond) (value : LaneState → AccWord) (s : State),
    ((∃ v rx, i = .cpVR v k rx c ∧ value = fun ln => writeView v (getAcc ln k) (getR ln rx)) ∨
      (∃ k', i = .cpAA k k' c ∧ value = fun ln => getAcc ln k')) →
    ∃ t, exec i s = .next t ∧ OnlyLanes s t ∧ ∀ n,
      (condHolds c (s.lane n).astatR = false → t.lane n = s.lane n) ∧
      (condHolds c (s.lane n).astatR = true →
        getAcc (t.lane n) k = value (s.lane n) ∧ LaneFrame [] [k] [] [] [] [] s t n)

/-- R277, R284: the writes of an address-generator register: `CP G, Rx` from the lowest active lane,
sign-extended into M and zero-extended into I, L, B, nothing with no active lane; `LD G, #16`. -/
def Obligations.AddressRegisterWrites : Prop :=
  (∀ (g : GClass) (k : GIx) (rx : Reg) (c : Cond) (s : State),
    ∃ t, exec (.cpGR g k rx c) s = .next t ∧ LanesKept s t ∧ ControlKept s t ∧ StacksKept s t ∧
      MachineKept s t ∧ NoError s t ∧ FallsThrough s.lpStk s t ∧
      ((∀ n, condHolds c (s.lane n).astatR = false) → AddressKept s t) ∧
      (∀ n, condHolds c (s.lane n).astatR = true →
        (∀ m, m < n → condHolds c (s.lane m).astatR = false) →
        ∀ h j, readG t h j =
          if h = g ∧ j = k then
            (if g = .m then (getR (s.lane n) rx).signExtend 16 else (getR (s.lane n) rx).zeroExtend 16)
          else readG s h j)) ∧
  (∀ (g : GClass) (k : GIx) (imm : BitVec 16) (s : State),
    ∃ t, exec (.ldGI g k imm) s = .next t ∧ LanesKept s t ∧ ControlKept s t ∧ StacksKept s t ∧
      MachineKept s t ∧ NoError s t ∧ FallsThrough s.lpStk s t ∧
      ∀ h j, readG t h j = if h = g ∧ j = k then imm else readG s h j)

/-- R279, R285: the writes of `_CNTR` and `_MSTAT`: `CP` from the lowest active lane, nothing with no
active lane; `LD` a constant; `MSTAT` takes bit 0 only. -/
def Obligations.SharedControlWrites : Prop :=
  (∀ (ctl : Ctl) (rx : Reg) (c : Cond) (s : State), ctl = .cntr ∨ ctl = .mstat →
    ∃ t, exec (.cpCR ctl rx c) s = .next t ∧ LanesKept s t ∧ AddressKept s t ∧ StacksKept s t ∧
      MachineKept s t ∧ NoError s t ∧ FallsThrough s.lpStk s t ∧ t.sstat = s.sstat ∧
      ((∀ n, condHolds c (s.lane n).astatR = false) → t.cntr = s.cntr ∧ t.mstat = s.mstat) ∧
      (∀ n, condHolds c (s.lane n).astatR = true →
        (∀ m, m < n → condHolds c (s.lane m).astatR = false) →
        t.cntr = (if ctl = .cntr then (getR (s.lane n) rx).zeroExtend 16 else s.cntr) ∧
        t.mstat = (if ctl = .mstat then (getR (s.lane n) rx).extractLsb' 0 1 else s.mstat))) ∧
  (∀ (ctl : Ctl) (imm : BitVec 16) (s : State), ctl = .cntr ∨ ctl = .mstat →
    ∃ t, exec (.ldCI ctl imm) s = .next t ∧ LanesKept s t ∧ AddressKept s t ∧ StacksKept s t ∧
      MachineKept s t ∧ NoError s t ∧ FallsThrough s.lpStk s t ∧ t.sstat = s.sstat ∧
      t.cntr = (if ctl = .cntr then imm else s.cntr) ∧
      t.mstat = (if ctl = .mstat then imm.extractLsb' 0 1 else s.mstat))

/-- R279, R285: the whole-bundle writes: `CP _ASTAT.x, Rx` in the active lanes and `LD _ASTAT.x, #16` in
every lane, verbatim: the sticky rule is not applied (10_state.md R35). -/
def Obligations.FlagBundleWrites : Prop :=
  ∀ (i : Instr) (ctl : Ctl) (active : LaneId → Bool) (value : LaneId → DWord) (s : State),
    ctl = .astatR ∨ ctl = .astatI ∨ ctl = .astatC →
    ((∃ rx c, i = .cpCR ctl rx c ∧ active = (fun n => condHolds c (s.lane n).astatR) ∧
        value = fun n => getR (s.lane n) rx) ∨
      (∃ imm, i = .ldCI ctl imm ∧ active = (fun _ => true) ∧ value = fun _ => imm.extractLsb' 0 12)) →
    ∃ t, exec i s = .next t ∧ OnlyLanes s t ∧ ∀ n,
      (active n = false → t.lane n = s.lane n) ∧
      (active n = true →
        (t.lane n).astatR = (if ctl = .astatR then value n else (s.lane n).astatR) ∧
        (t.lane n).astatI = (if ctl = .astatI then value n else (s.lane n).astatI) ∧
        (t.lane n).astatC = (if ctl = .astatC then value n else (s.lane n).astatC) ∧
        (∀ r, getR (t.lane n) r = getR (s.lane n) r) ∧
        (∀ k, getAcc (t.lane n) k = getAcc (s.lane n) k) ∧
        (∀ a, dataWord t n a = dataWord s n a))

/-! ## Loads and stores (spec/44_move_load_store.md) -/

/-- R290, R292: `LD` and `LD.C` in the five modes, at an address that passes the checks. -/
def Obligations.Loads : Prop :=
  ∀ (op : MemOp) (mode : Mode) (r : Reg) (c : Cond) (s : State), op = .ld ∨ op = .ldC →
    (memInstr op mode r c).wf = true → AddressOk s op.cplx (effAddr s mode) →
    ∃ t, exec (memInstr op mode r c) s = .next t ∧
      MemoryStep (memInstr op mode r c) (modeWrites s mode) s t ∧ ∀ n,
      (laneSelected (memInstr op mode r c) s n = false → t.lane n = s.lane n) ∧
      (laneSelected (memInstr op mode r c) s n = true →
        (op = .ld →
          getR (t.lane n) r = dataWord s n (effAddr s mode) ∧ LaneFrame [r] [] [] [] [] [] s t n) ∧
        (op = .ldC →
          getR (t.lane n) r = dataWord s n (effAddr s mode) ∧
          getR (t.lane n) (oddOf r) = dataWord s n (effAddr s mode + 1) ∧
          LaneFrame [r, oddOf r] [] [] [] [] [] s t n))

/-- R291, R293: `ST` and `ST.C` in the five modes, at an address that passes the checks: the words at the
effective address change, no other. -/
def Obligations.Stores : Prop :=
  ∀ (op : MemOp) (mode : Mode) (r : Reg) (c : Cond) (s : State), op = .st ∨ op = .stC →
    (memInstr op mode r c).wf = true → AddressOk s op.cplx (effAddr s mode) →
    ∃ t, exec (memInstr op mode r c) s = .next t ∧
      MemoryStep (memInstr op mode r c) (modeWrites s mode) s t ∧ ∀ n,
      (laneSelected (memInstr op mode r c) s n = false → t.lane n = s.lane n) ∧
      (laneSelected (memInstr op mode r c) s n = true →
        (op = .st →
          dataWord t n (effAddr s mode) = getR (s.lane n) r ∧
          LaneFrame [] [] [] [] [] [effAddr s mode] s t n) ∧
        (op = .stC →
          dataWord t n (effAddr s mode) = getR (s.lane n) r ∧
          dataWord t n (effAddr s mode + 1) = getR (s.lane n) (oddOf r) ∧
          LaneFrame [] [] [] [] [] [effAddr s mode, effAddr s mode + 1] s t n))

/-- 20_memory.md R86, 45_control_flow.md R327, 44_move_load_store.md R279, R285: the errors of
single-issue words: a load or store whose address fails a check, also with no active lane: `E_ADDR`;
`JUMP`, `CALL`, `RTS`, `DO` that fail a structural check: `E_STRUCT`; `_SSTAT` or `_DPID` as a
destination, whatever the mask: `E_SHAPE`. The word has no other effect. -/
def Obligations.SingleWordErrors : Prop :=
  (∀ (op : MemOp) (mode : Mode) (r : Reg) (c : Cond) (s : State),
    ¬AddressOk s op.cplx (effAddr s mode) →
    ∃ t, exec (memInstr op mode r c) s = .next t ∧ ErrorStep .addr s t) ∧
  (∀ (i : Instr) (s : State), ¬TransferOk s →
    ((∃ off c, i = .jump off c) ∨ (∃ off c, i = .call off c) ∨ ∃ c, i = .rts c) →
    ∃ t, exec i s = .next t ∧ ErrorStep .struct s t) ∧
  (∀ off term s, ¬LoopOk s → ∃ t, exec (.doUntil off term) s = .next t ∧ ErrorStep .struct s t) ∧
  (∀ (ctl : Ctl) (rx : Reg) (c : Cond) (imm : BitVec 16) (s : State), ctl = .sstat ∨ ctl = .dpid →
    (∃ t, exec (.cpCR ctl rx c) s = .next t ∧ ErrorStep .shape s t) ∧
    (∃ t, exec (.ldCI ctl imm) s = .next t ∧ ErrorStep .shape s t))

/-! ## Control flow (spec/45_control_flow.md) -/

/-- R330: `JUMP`: taken iff some lane's condition holds; the target is relative to its own address. -/
def Obligations.Jumps : Prop :=
  ∀ (off : BitVec 16) (c : Cond) (s : State), TransferOk s →
    ∃ t, exec (.jump off c) s = .next t ∧ TransferFrame s t ∧ t.sstat = s.sstat ∧
      t.pcStk = s.pcStk ∧
      ((∃ n, condHolds c (s.lane n).astatR = true) → Redirects (s.pc + off) s t) ∧
      ((∀ n, condHolds c (s.lane n).astatR = false) → FallsThrough s.lpStk s t)

/-- R331: `CALL`: pushes the return address, which skips a delay slot, and transfers; on a full stack
the return address is lost, the overflow bit is set and the call is still made. -/
def Obligations.Calls : Prop :=
  ∀ (off : BitVec 16) (c : Cond) (s : State), TransferOk s →
    ∃ t, exec (.call off c) s = .next t ∧ TransferFrame s t ∧
      ((∃ n, condHolds c (s.lane n).astatR = true) → Redirects (s.pc + off) s t ∧
        (s.pcStk.length < 8 → t.sstat = s.sstat ∧
          t.pcStk = (if s.params.delaySlot then s.pc + 2 else s.pc + 1) :: s.pcStk) ∧
        (8 ≤ s.pcStk.length → StatusBitsSet [0] s t ∧ t.pcStk = s.pcStk)) ∧
      ((∀ n, condHolds c (s.lane n).astatR = false) →
        FallsThrough s.lpStk s t ∧ t.sstat = s.sstat ∧ t.pcStk = s.pcStk)

/-- R332: `RTS`: pops the return address and transfers to it; on an empty stack the underflow bit is set
and the program goes on. -/
def Obligations.Returns : Prop :=
  ∀ (c : Cond) (s : State), TransferOk s →
    ∃ t, exec (.rts c) s = .next t ∧ TransferFrame s t ∧
      ((∃ n, condHolds c (s.lane n).astatR = true) →
        (∀ a rest, s.pcStk = a :: rest →
          Redirects a s t ∧ t.sstat = s.sstat ∧ t.pcStk = rest) ∧
        (s.pcStk = [] → FallsThrough s.lpStk s t ∧ StatusBitsSet [1] s t ∧ t.pcStk = [])) ∧
      ((∀ n, condHolds c (s.lane n).astatR = false) →
        FallsThrough s.lpStk s t ∧ t.sstat = s.sstat ∧ t.pcStk = s.pcStk)

/-- R333: `DO`: pushes the loop with the count that `CNTR` holds now and goes on with the first body
word; on a full stack the overflow bit is set and the loop is not registered. -/
def Obligations.LoopSetUp : Prop :=
  ∀ (off : BitVec 16) (term : Term) (s : State), LoopOk s →
    ∃ t, exec (.doUntil off term) s = .next t ∧ TransferFrame s t ∧ t.pcStk = s.pcStk ∧
      (s.lpStk.length < 8 → t.sstat = s.sstat ∧
        FallsThrough (⟨s.pc + 1, s.pc + 1 + off, s.cntr, decide (term = .forever)⟩ :: s.lpStk) s t) ∧
      (8 ≤ s.lpStk.length → StatusBitsSet [2] s t ∧ FallsThrough s.lpStk s t)

/-! ## System instructions (spec/46_system.md) -/

/-- R362: `NOP` is the word 0x01000000, not the all-zero word; it changes nothing but the sequencing, one
cycle and `prev_store`. -/
def Obligations.NoOperation : Prop :=
  decode 0x01000000 = .ok .nop ∧ (∀ i, decode 0x00000000 ≠ .ok i) ∧
  ∀ s : State, ∃ t, exec .nop s = .next t ∧ LanesKept s t ∧ OnlyLanes s t ∧
    t.cycles = s.cycles + 1 ∧ t.prevStore = false

/-- R363, R364: `PUSH STS` saves the bundles of all lanes and `MSTAT` on the stack and changes no live
register; on a full stack only the overflow bit is set. `POP STS` replaces the bundles of all lanes and
`MSTAT` by the saved ones; on an empty stack only the underflow bit is set. -/
def Obligations.StatusPushPop : Prop :=
  (∀ s : State, ∃ t, exec .pushSts s = .next t ∧ LanesKept s t ∧ AddressKept s t ∧ MachineKept s t ∧
    NoError s t ∧ FallsThrough s.lpStk s t ∧ t.cntr = s.cntr ∧ t.mstat = s.mstat ∧
    t.pcStk = s.pcStk ∧
    (s.stsStk.length < 8 → t.sstat = s.sstat ∧ ∃ e, t.stsStk = e :: s.stsStk ∧ e.mstat = s.mstat ∧
      ∀ n, e.bundles.get n = ⟨(s.lane n).astatR, (s.lane n).astatI, (s.lane n).astatC⟩) ∧
    (8 ≤ s.stsStk.length → StatusBitsSet [4] s t ∧ t.stsStk = s.stsStk)) ∧
  (∀ s : State, ∃ t, exec .popSts s = .next t ∧ AddressKept s t ∧ MachineKept s t ∧ NoError s t ∧
    FallsThrough s.lpStk s t ∧ t.cntr = s.cntr ∧ t.pcStk = s.pcStk ∧
    (∀ n r, getR (t.lane n) r = getR (s.lane n) r) ∧
    (∀ n k, getAcc (t.lane n) k = getAcc (s.lane n) k) ∧
    (∀ n a, dataWord t n a = dataWord s n a) ∧
    (∀ e rest, s.stsStk = e :: rest → t.stsStk = rest ∧ t.mstat = e.mstat ∧ t.sstat = s.sstat ∧
      ∀ n, (t.lane n).astatR = (e.bundles.get n).real ∧ (t.lane n).astatI = (e.bundles.get n).imag ∧
        (t.lane n).astatC = (e.bundles.get n).comb) ∧
    (s.stsStk = [] → t.stsStk = [] ∧ t.mstat = s.mstat ∧ StatusBitsSet [5] s t ∧ LanesKept s t))

/-- R365, 70_reset_and_hazards.md R441: `RESET` (the word 0x02000000) clears the mode and status registers
and the three stacks and keeps everything else; a pending delay slot still redirects, else the program
goes on with the next word, with no loop active. -/
def Obligations.SoftReset : Prop :=
  decode 0x02000000 = .ok .reset ∧
  ∀ s : State, ∃ t, exec .reset s = .next t ∧ t.mstat = 0 ∧ t.sstat = 0 ∧ t.pcStk = [] ∧
    t.lpStk = [] ∧ t.stsStk = [] ∧
    (∀ n, (t.lane n).astatR = 0 ∧ (t.lane n).astatI = 0 ∧ (t.lane n).astatC = 0) ∧
    (∀ n r, getR (t.lane n) r = getR (s.lane n) r) ∧
    (∀ n k, getAcc (t.lane n) k = getAcc (s.lane n) k) ∧
    (∀ n a, dataWord t n a = dataWord s n a) ∧ AddressKept s t ∧ t.cntr = s.cntr ∧
    MachineKept s t ∧ NoError s t ∧ t.pc = (if s.dsPending then s.dsTarget else s.pc + 1) ∧
    t.dsPending = false ∧ t.dsTarget = s.dsTarget ∧ t.cycles = s.cycles + 1 ∧ t.prevStore = false

/-! ## Bundles (spec/47_multifunction.md) -/

/-- R384: `ALU || LD`: the ALU result and its flags, the loaded register, the index register, all from
the state before the word. -/
def Obligations.AluLoadBundles : Prop :=
  ∀ (op : AluOp) (rd rx ry : Reg) (lrd : Reg8) (li lm : Ix4) (c : Cond) (s : State),
    rd ≠ reg8 lrd → AddressOk s false (effAddr s (lowMode li lm)) →
    ∃ t, exec (aluBundle op rd rx ry lrd li lm c) s = .next t ∧
      MemoryStep (aluBundle op rd rx ry lrd li lm c) (modeWrites s (lowMode li lm)) s t ∧ ∀ n,
      (condHolds c (s.lane n).astatR = false → t.lane n = s.lane n) ∧
      (condHolds c (s.lane n).astatR = true →
        let x := getR (s.lane n) rx
        let y := getR (s.lane n) ry
        let ac := flagOf (s.lane n).astatR .ac
        getR (t.lane n) rd = aluValue op x y ac ∧
        getR (t.lane n) (reg8 lrd) = dataWord s n (effAddr s (lowMode li lm)) ∧
        AluFlags (aluValue op x y ac) (aluOverflow op x y ac) (aluCarry op x y ac)
          (s.lane n).astatR (t.lane n).astatR ∧
        LaneFrame [rd, reg8 lrd] [] aluFlagSet [] [] [] s t n)

/-- R385: `MAC || LD`: the multiplier operation on the old registers, and the loaded register. -/
def Obligations.MacLoadBundles : Prop :=
  ∀ (kind : MacKind) (o : MacOpt) (acc : AccIx) (rx ry : Reg) (lrd : Reg8) (li lm : Ix4) (c : Cond)
    (s : State), AddressOk s false (effAddr s (lowMode li lm)) →
    ∃ t, exec (macBundle kind o acc rx ry lrd li lm c) s = .next t ∧
      MemoryStep (macBundle kind o acc rx ry lrd li lm c) (modeWrites s (lowMode li lm)) s t ∧ ∀ n,
      (condHolds c (s.lane n).astatR = false → t.lane n = s.lane n) ∧
      (condHolds c (s.lane n).astatR = true →
        MacDone kind o acc rx ry s t n ∧
        getR (t.lane n) (reg8 lrd) = dataWord s n (effAddr s (lowMode li lm)) ∧
        LaneFrame [reg8 lrd] [acc] [.mv, .mvs] [] [] [] s t n)

/-- R386: `MAC || LD || LD`: the multiplier operation on the old registers, and both loaded registers
and index registers. -/
def Obligations.MacLoadLoadBundles : Prop :=
  ∀ (kind : MacKind) (o : MacOpt1) (acc : Acc4) (rx ry l1rd : Reg8) (l1i l1m : Ix4) (l2rd : Reg8)
    (l2i l2m : Ix4) (c : Cond) (s : State), l1rd ≠ l2rd →
    AddressOk s false (effAddr s (lowMode l1i l1m)) →
    AddressOk s false (effAddr s (highMode l2i l2m)) →
    ∃ t, exec (macBundle3 kind o acc rx ry l1rd l1i l1m l2rd l2i l2m c) s = .next t ∧
      MemoryStep (macBundle3 kind o acc rx ry l1rd l1i l1m l2rd l2i l2m c)
        (modeWrites s (lowMode l1i l1m) ++ modeWrites s (highMode l2i l2m)) s t ∧ ∀ n,
      (condHolds c (s.lane n).astatR = false → t.lane n = s.lane n) ∧
      (condHolds c (s.lane n).astatR = true →
        MacDone kind (match o with | .ss => .ss | .rnd => .rnd) (acc4 acc) (reg8 rx) (reg8 ry) s t n ∧
        getR (t.lane n) (reg8 l1rd) = dataWord s n (effAddr s (lowMode l1i l1m)) ∧
        getR (t.lane n) (reg8 l2rd) = dataWord s n (effAddr s (highMode l2i l2m)) ∧
        LaneFrame [reg8 l1rd, reg8 l2rd] [acc4 acc] [.mv, .mvs] [] [] [] s t n)

/-- R387: `SHIFT || ST`: the shift, and the store of the register as it was before the word. -/
def Obligations.ShiftStoreBundles : Prop :=
  ∀ (kind : ShiftKind) (rd rx ry : Reg) (srs : Reg8) (si sm : Ix4) (c : Cond) (s : State),
    AddressOk s false (effAddr s (lowMode si sm)) →
    ∃ t, exec (shiftBundle kind rd rx ry srs si sm c) s = .next t ∧
      MemoryStep (shiftBundle kind rd rx ry srs si sm c) (modeWrites s (lowMode si sm)) s t ∧ ∀ n,
      (condHolds c (s.lane n).astatR = false → t.lane n = s.lane n) ∧
      (condHolds c (s.lane n).astatR = true →
        ShiftDone kind rd rx (.reg ry) s t n ∧
        dataWord t n (effAddr s (lowMode si sm)) = getR (s.lane n) (reg8 srs) ∧
        LaneFrame [rd] [] shiftFlagSet [] [] [effAddr s (lowMode si sm)] s t n)

/-- R383, R386, R389: the errors of bundles, in the order R406 gives: identical destinations raise
`E_STRUCT` whatever the addresses, then an address that fails the check raises `E_ADDR`; the compute
half has no effect either. -/
def Obligations.BundleErrors : Prop :=
  (∀ (op : AluOp) (rd rx ry : Reg) (lrd : Reg8) (li lm : Ix4) (c : Cond) (s : State),
    (rd = reg8 lrd → ∃ t, exec (aluBundle op rd rx ry lrd li lm c) s = .next t ∧
      ErrorStep .struct s t) ∧
    (rd ≠ reg8 lrd → ¬AddressOk s false (effAddr s (lowMode li lm)) →
      ∃ t, exec (aluBundle op rd rx ry lrd li lm c) s = .next t ∧ ErrorStep .addr s t)) ∧
  (∀ (kind : MacKind) (o : MacOpt) (acc : AccIx) (rx ry : Reg) (lrd : Reg8) (li lm : Ix4) (c : Cond)
    (s : State), ¬AddressOk s false (effAddr s (lowMode li lm)) →
    ∃ t, exec (macBundle kind o acc rx ry lrd li lm c) s = .next t ∧ ErrorStep .addr s t) ∧
  (∀ (kind : MacKind) (o : MacOpt1) (acc : Acc4) (rx ry l1rd : Reg8) (l1i l1m : Ix4) (l2rd : Reg8)
    (l2i l2m : Ix4) (c : Cond) (s : State),
    (l1rd = l2rd → ∃ t, exec (macBundle3 kind o acc rx ry l1rd l1i l1m l2rd l2i l2m c) s = .next t ∧
      ErrorStep .struct s t) ∧
    (l1rd ≠ l2rd → (¬AddressOk s false (effAddr s (lowMode l1i l1m)) ∨
        ¬AddressOk s false (effAddr s (highMode l2i l2m))) →
      ∃ t, exec (macBundle3 kind o acc rx ry l1rd l1i l1m l2rd l2i l2m c) s = .next t ∧
        ErrorStep .addr s t)) ∧
  (∀ (kind : ShiftKind) (rd rx ry : Reg) (srs : Reg8) (si sm : Ix4) (c : Cond) (s : State),
    ¬AddressOk s false (effAddr s (lowMode si sm)) →
    ∃ t, exec (shiftBundle kind rd rx ry srs si sm c) s = .next t ∧ ErrorStep .addr s t)
end

