-- ==== Sys2Proof/Laws/Memory.lean ====
section
/-! SUPPORT. The laws of the word-addressed memories (spec/20_memory.md R76 to R78): read after write,
every other word unchanged, the canonical form kept. -/

namespace Sys2Proof.Machine

/-- What is found after a write: the word written there, else what was found before. -/
theorem memFind_memPut {w : Nat} (mem : Memory w) (a : Nat) (v : BitVec w) (b : Nat) :
    memFind (memPut mem a v) b = if a = b then some v else memFind mem b := by
  induction mem with
  | nil => by_cases h : a = b <;> simp [memPut, memFind, h]
  | cons e rest ih =>
    obtain ⟨k, x⟩ := e
    unfold memPut
    split
    · by_cases h : a = b <;> simp [memFind, h]
    · split
      · subst_vars
        by_cases h : k = b <;> simp [memFind, h]
      · rename_i h1 h2
        by_cases h : k = b
        · subst h
          simp [memFind, h2]
        · simp [memFind, h, ih]

/-- Reading after a write (20_memory.md R76, R77). -/
theorem dmRead_dmWrite (l : LaneId) (mem : Memory 12) (a : Addr) (v : DWord) (b : Addr) :
    dmRead l (dmWrite mem a v) b = if a = b then v else dmRead l mem b := by
  unfold dmRead dmWrite
  rw [memFind_memPut]
  by_cases h : a = b
  · subst h; simp
  · have : a.toNat ≠ b.toNat := fun he => h (BitVec.eq_of_toNat_eq he)
    simp [h, this]

/-- A list of entries in canonical form whose first address is above `j`. -/
theorem memWf_cons {w : Nat} (j : Nat) (x : BitVec w) (mem : Memory w) :
    memWf ((j, x) :: mem) = true ↔
      (∀ k v rest, mem = (k, v) :: rest → j < k) ∧ memWf mem = true := by
  cases mem with
  | nil => simp [memWf]
  | cons e rest =>
    obtain ⟨k, v⟩ := e
    simp [memWf]

/-- The first address of a memory after a write. -/
theorem memPut_head {w : Nat} (mem : Memory w) (a j : Nat) (v : BitVec w) (hj : j < a)
    (hm : ∀ k x rest, mem = (k, x) :: rest → j < k) :
    ∀ k x rest, memPut mem a v = (k, x) :: rest → j < k := by
  intro k x rest h
  cases mem with
  | nil =>
    simp only [memPut, List.cons.injEq, Prod.mk.injEq] at h
    omega
  | cons e es =>
    obtain ⟨k0, x0⟩ := e
    have := hm k0 x0 es rfl
    unfold memPut at h
    split at h
    · simp only [List.cons.injEq, Prod.mk.injEq] at h; omega
    · split at h <;> (simp only [List.cons.injEq, Prod.mk.injEq] at h; omega)

/-- A write keeps the canonical form. -/
theorem memWf_memPut {w : Nat} (mem : Memory w) (a : Nat) (v : BitVec w) (h : memWf mem = true) :
    memWf (memPut mem a v) = true := by
  induction mem with
  | nil => rfl
  | cons e rest ih =>
    obtain ⟨k, x⟩ := e
    rw [memWf_cons] at h
    unfold memPut
    split
    · rw [memWf_cons, memWf_cons]
      refine ⟨?_, h⟩
      intro k' v' r he
      simp only [List.cons.injEq, Prod.mk.injEq] at he
      omega
    · split
      · rename_i hk
        rw [memWf_cons]
        subst hk
        exact h
      · rename_i h1 h2
        rw [memWf_cons]
        exact ⟨memPut_head rest a k v (by omega) h.1, ih h.2⟩

/-- A write at an address below `n` keeps every listed address below `n`. -/
theorem memBelow_memPut {w : Nat} (n : Nat) (mem : Memory w) (a : Nat) (v : BitVec w) (ha : a < n)
    (h : memBelow n mem = true) : memBelow n (memPut mem a v) = true := by
  induction mem with
  | nil => simpa [memPut, memBelow] using ha
  | cons e rest ih =>
    obtain ⟨k, x⟩ := e
    simp only [memBelow, List.all_cons, Bool.and_eq_true, decide_eq_true_eq] at h ih ⊢
    unfold memPut
    split
    · simp [ha, h.1, h.2]
    · split
      · simp [ha, h.2]
      · simp [h.1, ih h.2]

/-- A data-memory write keeps the canonical form. -/
theorem memWf_dmWrite (mem : Memory 12) (a : Addr) (v : DWord) (h : memWf mem = true) :
    memWf (dmWrite mem a v) = true := memWf_memPut mem a.toNat v h

/-- The memories of the reset state are in canonical form. -/
theorem memWf_reset (p : Params) (l : LaneId) :
    memWf ((State.resetWith p).lane l).dm = true ∧ memWf (State.resetWith p).im = true := by
  refine ⟨?_, rfl⟩
  match l with
  | 0 => rfl
  | 1 => rfl
  | 2 => rfl
  | 3 => rfl

end Sys2Proof.Machine
end

