-- ==== Sys2Proof/Laws/State.lean ====
section
/-! SUPPORT. One lemma per field per update: what each named update of a lane or of the state leaves
alone, so that no proof unfolds a record update. -/

namespace Sys2Proof.Machine

/-! ## Updates of a lane -/

@[simp] theorem setR_acc (ln : LaneState) (i : Reg) (v : DWord) :
    (setR ln i v).acc = ln.acc := rfl
@[simp] theorem setR_astatR (ln : LaneState) (i : Reg) (v : DWord) :
    (setR ln i v).astatR = ln.astatR := rfl
@[simp] theorem setR_astatI (ln : LaneState) (i : Reg) (v : DWord) :
    (setR ln i v).astatI = ln.astatI := rfl
@[simp] theorem setR_astatC (ln : LaneState) (i : Reg) (v : DWord) :
    (setR ln i v).astatC = ln.astatC := rfl
@[simp] theorem setR_dm (ln : LaneState) (i : Reg) (v : DWord) :
    (setR ln i v).dm = ln.dm := rfl

@[simp] theorem setAcc_r (ln : LaneState) (k : AccIx) (v : AccWord) :
    (setAcc ln k v).r = ln.r := rfl
@[simp] theorem setAcc_astatR (ln : LaneState) (k : AccIx) (v : AccWord) :
    (setAcc ln k v).astatR = ln.astatR := rfl
@[simp] theorem setAcc_astatI (ln : LaneState) (k : AccIx) (v : AccWord) :
    (setAcc ln k v).astatI = ln.astatI := rfl
@[simp] theorem setAcc_astatC (ln : LaneState) (k : AccIx) (v : AccWord) :
    (setAcc ln k v).astatC = ln.astatC := rfl
@[simp] theorem setAcc_dm (ln : LaneState) (k : AccIx) (v : AccWord) :
    (setAcc ln k v).dm = ln.dm := rfl

@[simp] theorem flagsR_r (ln : LaneState) (ws : FlagWrites) :
    (flagsR ln ws).r = ln.r := rfl
@[simp] theorem flagsR_acc (ln : LaneState) (ws : FlagWrites) :
    (flagsR ln ws).acc = ln.acc := rfl
@[simp] theorem flagsR_astatI (ln : LaneState) (ws : FlagWrites) :
    (flagsR ln ws).astatI = ln.astatI := rfl
@[simp] theorem flagsR_astatC (ln : LaneState) (ws : FlagWrites) :
    (flagsR ln ws).astatC = ln.astatC := rfl
@[simp] theorem flagsR_dm (ln : LaneState) (ws : FlagWrites) :
    (flagsR ln ws).dm = ln.dm := rfl

@[simp] theorem flagsC_r (ln : LaneState) (fr fi : FlagWrites) :
    (flagsC ln fr fi).r = ln.r := rfl
@[simp] theorem flagsC_acc (ln : LaneState) (fr fi : FlagWrites) :
    (flagsC ln fr fi).acc = ln.acc := rfl
@[simp] theorem flagsC_dm (ln : LaneState) (fr fi : FlagWrites) :
    (flagsC ln fr fi).dm = ln.dm := rfl

@[simp] theorem withBundles_r (ln : LaneState) (x : Bundles) :
    (withBundles ln x).r = ln.r := rfl
@[simp] theorem withBundles_acc (ln : LaneState) (x : Bundles) :
    (withBundles ln x).acc = ln.acc := rfl
@[simp] theorem withBundles_dm (ln : LaneState) (x : Bundles) :
    (withBundles ln x).dm = ln.dm := rfl

@[simp] theorem setBundle_r (c : Ctl) (v : FlagBundle) (ln : LaneState) :
    (setBundle c v ln).r = ln.r := by cases c <;> rfl
@[simp] theorem setBundle_acc (c : Ctl) (v : FlagBundle) (ln : LaneState) :
    (setBundle c v ln).acc = ln.acc := by cases c <;> rfl
@[simp] theorem setBundle_dm (c : Ctl) (v : FlagBundle) (ln : LaneState) :
    (setBundle c v ln).dm = ln.dm := by cases c <;> rfl

@[simp] theorem storeLane_r (ea : Addr) (r : Reg) (ln : LaneState) :
    (storeLane ea r ln).r = ln.r := rfl
@[simp] theorem storeLane_acc (ea : Addr) (r : Reg) (ln : LaneState) :
    (storeLane ea r ln).acc = ln.acc := rfl
@[simp] theorem storeLane_astatR (ea : Addr) (r : Reg) (ln : LaneState) :
    (storeLane ea r ln).astatR = ln.astatR := rfl
@[simp] theorem storeLane_astatI (ea : Addr) (r : Reg) (ln : LaneState) :
    (storeLane ea r ln).astatI = ln.astatI := rfl
@[simp] theorem storeLane_astatC (ea : Addr) (r : Reg) (ln : LaneState) :
    (storeLane ea r ln).astatC = ln.astatC := rfl

@[simp] theorem storePairLane_r (ea : Addr) (r : Reg) (ln : LaneState) :
    (storePairLane ea r ln).r = ln.r := rfl
@[simp] theorem storePairLane_acc (ea : Addr) (r : Reg) (ln : LaneState) :
    (storePairLane ea r ln).acc = ln.acc := rfl
@[simp] theorem storePairLane_astatR (ea : Addr) (r : Reg) (ln : LaneState) :
    (storePairLane ea r ln).astatR = ln.astatR := rfl
@[simp] theorem storePairLane_astatI (ea : Addr) (r : Reg) (ln : LaneState) :
    (storePairLane ea r ln).astatI = ln.astatI := rfl
@[simp] theorem storePairLane_astatC (ea : Addr) (r : Reg) (ln : LaneState) :
    (storePairLane ea r ln).astatC = ln.astatC := rfl

@[simp] theorem flagsR_astatR (ln : LaneState) (ws : FlagWrites) :
    (flagsR ln ws).astatR = setFlags ln.astatR ws := rfl
@[simp] theorem flagsC_astatR (ln : LaneState) (fr fi : FlagWrites) :
    (flagsC ln fr fi).astatR = setFlags ln.astatR fr := rfl
@[simp] theorem flagsC_astatI (ln : LaneState) (fr fi : FlagWrites) :
    (flagsC ln fr fi).astatI = setFlags ln.astatI fi := rfl
@[simp] theorem flagsC_astatC (ln : LaneState) (fr fi : FlagWrites) :
    (flagsC ln fr fi).astatC = setFlags ln.astatC (combineFlags fr fi) := rfl
@[simp] theorem withBundles_astatR (ln : LaneState) (x : Bundles) :
    (withBundles ln x).astatR = x.real := rfl
@[simp] theorem withBundles_astatI (ln : LaneState) (x : Bundles) :
    (withBundles ln x).astatI = x.imag := rfl
@[simp] theorem withBundles_astatC (ln : LaneState) (x : Bundles) :
    (withBundles ln x).astatC = x.comb := rfl

/-! ## Updates of the state -/

@[simp] theorem mapMask_params (s : State) (k : Mask) (f : LaneId → LaneState → LaneState) :
    (mapMask s k f).params = s.params := rfl
@[simp] theorem mapMask_i (s : State) (k : Mask) (f : LaneId → LaneState → LaneState) :
    (mapMask s k f).i = s.i := rfl
@[simp] theorem mapMask_m (s : State) (k : Mask) (f : LaneId → LaneState → LaneState) :
    (mapMask s k f).m = s.m := rfl
@[simp] theorem mapMask_l (s : State) (k : Mask) (f : LaneId → LaneState → LaneState) :
    (mapMask s k f).l = s.l := rfl
@[simp] theorem mapMask_b (s : State) (k : Mask) (f : LaneId → LaneState → LaneState) :
    (mapMask s k f).b = s.b := rfl
@[simp] theorem mapMask_pc (s : State) (k : Mask) (f : LaneId → LaneState → LaneState) :
    (mapMask s k f).pc = s.pc := rfl
@[simp] theorem mapMask_cntr (s : State) (k : Mask) (f : LaneId → LaneState → LaneState) :
    (mapMask s k f).cntr = s.cntr := rfl
@[simp] theorem mapMask_mstat (s : State) (k : Mask) (f : LaneId → LaneState → LaneState) :
    (mapMask s k f).mstat = s.mstat := rfl
@[simp] theorem mapMask_sstat (s : State) (k : Mask) (f : LaneId → LaneState → LaneState) :
    (mapMask s k f).sstat = s.sstat := rfl
@[simp] theorem mapMask_pcStk (s : State) (k : Mask) (f : LaneId → LaneState → LaneState) :
    (mapMask s k f).pcStk = s.pcStk := rfl
@[simp] theorem mapMask_lpStk (s : State) (k : Mask) (f : LaneId → LaneState → LaneState) :
    (mapMask s k f).lpStk = s.lpStk := rfl
@[simp] theorem mapMask_stsStk (s : State) (k : Mask) (f : LaneId → LaneState → LaneState) :
    (mapMask s k f).stsStk = s.stsStk := rfl
@[simp] theorem mapMask_dsPending (s : State) (k : Mask) (f : LaneId → LaneState → LaneState) :
    (mapMask s k f).dsPending = s.dsPending := rfl
@[simp] theorem mapMask_dsTarget (s : State) (k : Mask) (f : LaneId → LaneState → LaneState) :
    (mapMask s k f).dsTarget = s.dsTarget := rfl
@[simp] theorem mapMask_prevStore (s : State) (k : Mask) (f : LaneId → LaneState → LaneState) :
    (mapMask s k f).prevStore = s.prevStore := rfl
@[simp] theorem mapMask_cycles (s : State) (k : Mask) (f : LaneId → LaneState → LaneState) :
    (mapMask s k f).cycles = s.cycles := rfl
@[simp] theorem mapMask_errCnt (s : State) (k : Mask) (f : LaneId → LaneState → LaneState) :
    (mapMask s k f).errCnt = s.errCnt := rfl
@[simp] theorem mapMask_errLog (s : State) (k : Mask) (f : LaneId → LaneState → LaneState) :
    (mapMask s k f).errLog = s.errLog := rfl
@[simp] theorem mapMask_halted (s : State) (k : Mask) (f : LaneId → LaneState → LaneState) :
    (mapMask s k f).halted = s.halted := rfl
@[simp] theorem mapMask_im (s : State) (k : Mask) (f : LaneId → LaneState → LaneState) :
    (mapMask s k f).im = s.im := rfl

@[simp] theorem writeG_params (s : State) (g : GClass) (k : GIx) (v : Addr) :
    (writeG s g k v).params = s.params := by cases g <;> rfl
@[simp] theorem writeG_lanes (s : State) (g : GClass) (k : GIx) (v : Addr) :
    (writeG s g k v).lanes = s.lanes := by cases g <;> rfl
@[simp] theorem writeG_pc (s : State) (g : GClass) (k : GIx) (v : Addr) :
    (writeG s g k v).pc = s.pc := by cases g <;> rfl
@[simp] theorem writeG_cntr (s : State) (g : GClass) (k : GIx) (v : Addr) :
    (writeG s g k v).cntr = s.cntr := by cases g <;> rfl
@[simp] theorem writeG_mstat (s : State) (g : GClass) (k : GIx) (v : Addr) :
    (writeG s g k v).mstat = s.mstat := by cases g <;> rfl
@[simp] theorem writeG_sstat (s : State) (g : GClass) (k : GIx) (v : Addr) :
    (writeG s g k v).sstat = s.sstat := by cases g <;> rfl
@[simp] theorem writeG_pcStk (s : State) (g : GClass) (k : GIx) (v : Addr) :
    (writeG s g k v).pcStk = s.pcStk := by cases g <;> rfl
@[simp] theorem writeG_lpStk (s : State) (g : GClass) (k : GIx) (v : Addr) :
    (writeG s g k v).lpStk = s.lpStk := by cases g <;> rfl
@[simp] theorem writeG_stsStk (s : State) (g : GClass) (k : GIx) (v : Addr) :
    (writeG s g k v).stsStk = s.stsStk := by cases g <;> rfl
@[simp] theorem writeG_dsPending (s : State) (g : GClass) (k : GIx) (v : Addr) :
    (writeG s g k v).dsPending = s.dsPending := by cases g <;> rfl
@[simp] theorem writeG_dsTarget (s : State) (g : GClass) (k : GIx) (v : Addr) :
    (writeG s g k v).dsTarget = s.dsTarget := by cases g <;> rfl
@[simp] theorem writeG_prevStore (s : State) (g : GClass) (k : GIx) (v : Addr) :
    (writeG s g k v).prevStore = s.prevStore := by cases g <;> rfl
@[simp] theorem writeG_cycles (s : State) (g : GClass) (k : GIx) (v : Addr) :
    (writeG s g k v).cycles = s.cycles := by cases g <;> rfl
@[simp] theorem writeG_errCnt (s : State) (g : GClass) (k : GIx) (v : Addr) :
    (writeG s g k v).errCnt = s.errCnt := by cases g <;> rfl
@[simp] theorem writeG_errLog (s : State) (g : GClass) (k : GIx) (v : Addr) :
    (writeG s g k v).errLog = s.errLog := by cases g <;> rfl
@[simp] theorem writeG_halted (s : State) (g : GClass) (k : GIx) (v : Addr) :
    (writeG s g k v).halted = s.halted := by cases g <;> rfl
@[simp] theorem writeG_im (s : State) (g : GClass) (k : GIx) (v : Addr) :
    (writeG s g k v).im = s.im := by cases g <;> rfl

@[simp] theorem markStack_params (s : State) (bit : Nat) :
    (markStack s bit).params = s.params := rfl
@[simp] theorem markStack_lanes (s : State) (bit : Nat) :
    (markStack s bit).lanes = s.lanes := rfl
@[simp] theorem markStack_i (s : State) (bit : Nat) :
    (markStack s bit).i = s.i := rfl
@[simp] theorem markStack_m (s : State) (bit : Nat) :
    (markStack s bit).m = s.m := rfl
@[simp] theorem markStack_l (s : State) (bit : Nat) :
    (markStack s bit).l = s.l := rfl
@[simp] theorem markStack_b (s : State) (bit : Nat) :
    (markStack s bit).b = s.b := rfl
@[simp] theorem markStack_pc (s : State) (bit : Nat) :
    (markStack s bit).pc = s.pc := rfl
@[simp] theorem markStack_cntr (s : State) (bit : Nat) :
    (markStack s bit).cntr = s.cntr := rfl
@[simp] theorem markStack_mstat (s : State) (bit : Nat) :
    (markStack s bit).mstat = s.mstat := rfl
@[simp] theorem markStack_pcStk (s : State) (bit : Nat) :
    (markStack s bit).pcStk = s.pcStk := rfl
@[simp] theorem markStack_lpStk (s : State) (bit : Nat) :
    (markStack s bit).lpStk = s.lpStk := rfl
@[simp] theorem markStack_stsStk (s : State) (bit : Nat) :
    (markStack s bit).stsStk = s.stsStk := rfl
@[simp] theorem markStack_dsPending (s : State) (bit : Nat) :
    (markStack s bit).dsPending = s.dsPending := rfl
@[simp] theorem markStack_dsTarget (s : State) (bit : Nat) :
    (markStack s bit).dsTarget = s.dsTarget := rfl
@[simp] theorem markStack_prevStore (s : State) (bit : Nat) :
    (markStack s bit).prevStore = s.prevStore := rfl
@[simp] theorem markStack_cycles (s : State) (bit : Nat) :
    (markStack s bit).cycles = s.cycles := rfl
@[simp] theorem markStack_errCnt (s : State) (bit : Nat) :
    (markStack s bit).errCnt = s.errCnt := rfl
@[simp] theorem markStack_errLog (s : State) (bit : Nat) :
    (markStack s bit).errLog = s.errLog := rfl
@[simp] theorem markStack_halted (s : State) (bit : Nat) :
    (markStack s bit).halted = s.halted := rfl
@[simp] theorem markStack_im (s : State) (bit : Nat) :
    (markStack s bit).im = s.im := rfl

@[simp] theorem raiseError_params (s : State) (cls : ErrorClass) (info : ErrorInfo) :
    (raiseError s cls info).params = s.params := rfl
@[simp] theorem raiseError_lanes (s : State) (cls : ErrorClass) (info : ErrorInfo) :
    (raiseError s cls info).lanes = s.lanes := rfl
@[simp] theorem raiseError_i (s : State) (cls : ErrorClass) (info : ErrorInfo) :
    (raiseError s cls info).i = s.i := rfl
@[simp] theorem raiseError_m (s : State) (cls : ErrorClass) (info : ErrorInfo) :
    (raiseError s cls info).m = s.m := rfl
@[simp] theorem raiseError_l (s : State) (cls : ErrorClass) (info : ErrorInfo) :
    (raiseError s cls info).l = s.l := rfl
@[simp] theorem raiseError_b (s : State) (cls : ErrorClass) (info : ErrorInfo) :
    (raiseError s cls info).b = s.b := rfl
@[simp] theorem raiseError_pc (s : State) (cls : ErrorClass) (info : ErrorInfo) :
    (raiseError s cls info).pc = s.pc := rfl
@[simp] theorem raiseError_cntr (s : State) (cls : ErrorClass) (info : ErrorInfo) :
    (raiseError s cls info).cntr = s.cntr := rfl
@[simp] theorem raiseError_mstat (s : State) (cls : ErrorClass) (info : ErrorInfo) :
    (raiseError s cls info).mstat = s.mstat := rfl
@[simp] theorem raiseError_sstat (s : State) (cls : ErrorClass) (info : ErrorInfo) :
    (raiseError s cls info).sstat = s.sstat := rfl
@[simp] theorem raiseError_pcStk (s : State) (cls : ErrorClass) (info : ErrorInfo) :
    (raiseError s cls info).pcStk = s.pcStk := rfl
@[simp] theorem raiseError_lpStk (s : State) (cls : ErrorClass) (info : ErrorInfo) :
    (raiseError s cls info).lpStk = s.lpStk := rfl
@[simp] theorem raiseError_stsStk (s : State) (cls : ErrorClass) (info : ErrorInfo) :
    (raiseError s cls info).stsStk = s.stsStk := rfl
@[simp] theorem raiseError_dsPending (s : State) (cls : ErrorClass) (info : ErrorInfo) :
    (raiseError s cls info).dsPending = s.dsPending := rfl
@[simp] theorem raiseError_dsTarget (s : State) (cls : ErrorClass) (info : ErrorInfo) :
    (raiseError s cls info).dsTarget = s.dsTarget := rfl
@[simp] theorem raiseError_prevStore (s : State) (cls : ErrorClass) (info : ErrorInfo) :
    (raiseError s cls info).prevStore = s.prevStore := rfl
@[simp] theorem raiseError_cycles (s : State) (cls : ErrorClass) (info : ErrorInfo) :
    (raiseError s cls info).cycles = s.cycles := rfl
@[simp] theorem raiseError_halted (s : State) (cls : ErrorClass) (info : ErrorInfo) :
    (raiseError s cls info).halted = s.halted := rfl
@[simp] theorem raiseError_im (s : State) (cls : ErrorClass) (info : ErrorInfo) :
    (raiseError s cls info).im = s.im := rfl

@[simp] theorem tally_params (s : State) (added : Nat) (store : Bool) :
    (tally s added store).params = s.params := rfl
@[simp] theorem tally_lanes (s : State) (added : Nat) (store : Bool) :
    (tally s added store).lanes = s.lanes := rfl
@[simp] theorem tally_i (s : State) (added : Nat) (store : Bool) :
    (tally s added store).i = s.i := rfl
@[simp] theorem tally_m (s : State) (added : Nat) (store : Bool) :
    (tally s added store).m = s.m := rfl
@[simp] theorem tally_l (s : State) (added : Nat) (store : Bool) :
    (tally s added store).l = s.l := rfl
@[simp] theorem tally_b (s : State) (added : Nat) (store : Bool) :
    (tally s added store).b = s.b := rfl
@[simp] theorem tally_pc (s : State) (added : Nat) (store : Bool) :
    (tally s added store).pc = s.pc := rfl
@[simp] theorem tally_cntr (s : State) (added : Nat) (store : Bool) :
    (tally s added store).cntr = s.cntr := rfl
@[simp] theorem tally_mstat (s : State) (added : Nat) (store : Bool) :
    (tally s added store).mstat = s.mstat := rfl
@[simp] theorem tally_sstat (s : State) (added : Nat) (store : Bool) :
    (tally s added store).sstat = s.sstat := rfl
@[simp] theorem tally_pcStk (s : State) (added : Nat) (store : Bool) :
    (tally s added store).pcStk = s.pcStk := rfl
@[simp] theorem tally_lpStk (s : State) (added : Nat) (store : Bool) :
    (tally s added store).lpStk = s.lpStk := rfl
@[simp] theorem tally_stsStk (s : State) (added : Nat) (store : Bool) :
    (tally s added store).stsStk = s.stsStk := rfl
@[simp] theorem tally_dsPending (s : State) (added : Nat) (store : Bool) :
    (tally s added store).dsPending = s.dsPending := rfl
@[simp] theorem tally_dsTarget (s : State) (added : Nat) (store : Bool) :
    (tally s added store).dsTarget = s.dsTarget := rfl
@[simp] theorem tally_errCnt (s : State) (added : Nat) (store : Bool) :
    (tally s added store).errCnt = s.errCnt := rfl
@[simp] theorem tally_errLog (s : State) (added : Nat) (store : Bool) :
    (tally s added store).errLog = s.errLog := rfl
@[simp] theorem tally_halted (s : State) (added : Nat) (store : Bool) :
    (tally s added store).halted = s.halted := rfl
@[simp] theorem tally_im (s : State) (added : Nat) (store : Bool) :
    (tally s added store).im = s.im := rfl

@[simp] theorem softReset_params (s : State) :
    (softReset s).params = s.params := rfl
@[simp] theorem softReset_i (s : State) :
    (softReset s).i = s.i := rfl
@[simp] theorem softReset_m (s : State) :
    (softReset s).m = s.m := rfl
@[simp] theorem softReset_l (s : State) :
    (softReset s).l = s.l := rfl
@[simp] theorem softReset_b (s : State) :
    (softReset s).b = s.b := rfl
@[simp] theorem softReset_pc (s : State) :
    (softReset s).pc = s.pc := rfl
@[simp] theorem softReset_cntr (s : State) :
    (softReset s).cntr = s.cntr := rfl
@[simp] theorem softReset_dsPending (s : State) :
    (softReset s).dsPending = s.dsPending := rfl
@[simp] theorem softReset_dsTarget (s : State) :
    (softReset s).dsTarget = s.dsTarget := rfl
@[simp] theorem softReset_prevStore (s : State) :
    (softReset s).prevStore = s.prevStore := rfl
@[simp] theorem softReset_cycles (s : State) :
    (softReset s).cycles = s.cycles := rfl
@[simp] theorem softReset_errCnt (s : State) :
    (softReset s).errCnt = s.errCnt := rfl
@[simp] theorem softReset_errLog (s : State) :
    (softReset s).errLog = s.errLog := rfl
@[simp] theorem softReset_halted (s : State) :
    (softReset s).halted = s.halted := rfl
@[simp] theorem softReset_im (s : State) :
    (softReset s).im = s.im := rfl

@[simp] theorem endOfRun_params (s : State) :
    (endOfRun s).params = s.params := rfl
@[simp] theorem endOfRun_lanes (s : State) :
    (endOfRun s).lanes = s.lanes := rfl
@[simp] theorem endOfRun_i (s : State) :
    (endOfRun s).i = s.i := rfl
@[simp] theorem endOfRun_m (s : State) :
    (endOfRun s).m = s.m := rfl
@[simp] theorem endOfRun_l (s : State) :
    (endOfRun s).l = s.l := rfl
@[simp] theorem endOfRun_b (s : State) :
    (endOfRun s).b = s.b := rfl
@[simp] theorem endOfRun_pc (s : State) :
    (endOfRun s).pc = s.pc := rfl
@[simp] theorem endOfRun_cntr (s : State) :
    (endOfRun s).cntr = s.cntr := rfl
@[simp] theorem endOfRun_mstat (s : State) :
    (endOfRun s).mstat = s.mstat := rfl
@[simp] theorem endOfRun_sstat (s : State) :
    (endOfRun s).sstat = s.sstat := rfl
@[simp] theorem endOfRun_pcStk (s : State) :
    (endOfRun s).pcStk = s.pcStk := rfl
@[simp] theorem endOfRun_lpStk (s : State) :
    (endOfRun s).lpStk = s.lpStk := rfl
@[simp] theorem endOfRun_stsStk (s : State) :
    (endOfRun s).stsStk = s.stsStk := rfl
@[simp] theorem endOfRun_dsPending (s : State) :
    (endOfRun s).dsPending = s.dsPending := rfl
@[simp] theorem endOfRun_dsTarget (s : State) :
    (endOfRun s).dsTarget = s.dsTarget := rfl
@[simp] theorem endOfRun_prevStore (s : State) :
    (endOfRun s).prevStore = s.prevStore := rfl
@[simp] theorem endOfRun_cycles (s : State) :
    (endOfRun s).cycles = s.cycles := rfl
@[simp] theorem endOfRun_errCnt (s : State) :
    (endOfRun s).errCnt = s.errCnt := rfl
@[simp] theorem endOfRun_errLog (s : State) :
    (endOfRun s).errLog = s.errLog := rfl
@[simp] theorem endOfRun_im (s : State) :
    (endOfRun s).im = s.im := rfl

@[simp] theorem applyPost_params (s : State) (k : Mask) (u : Option (GIx × Addr)) :
    (applyPost s k u).params = s.params := by unfold applyPost; split <;> [rfl; (split <;> simp)]
@[simp] theorem applyPost_lanes (s : State) (k : Mask) (u : Option (GIx × Addr)) :
    (applyPost s k u).lanes = s.lanes := by unfold applyPost; split <;> [rfl; (split <;> simp)]
@[simp] theorem applyPost_pc (s : State) (k : Mask) (u : Option (GIx × Addr)) :
    (applyPost s k u).pc = s.pc := by unfold applyPost; split <;> [rfl; (split <;> simp)]
@[simp] theorem applyPost_cntr (s : State) (k : Mask) (u : Option (GIx × Addr)) :
    (applyPost s k u).cntr = s.cntr := by unfold applyPost; split <;> [rfl; (split <;> simp)]
@[simp] theorem applyPost_mstat (s : State) (k : Mask) (u : Option (GIx × Addr)) :
    (applyPost s k u).mstat = s.mstat := by unfold applyPost; split <;> [rfl; (split <;> simp)]
@[simp] theorem applyPost_sstat (s : State) (k : Mask) (u : Option (GIx × Addr)) :
    (applyPost s k u).sstat = s.sstat := by unfold applyPost; split <;> [rfl; (split <;> simp)]
@[simp] theorem applyPost_pcStk (s : State) (k : Mask) (u : Option (GIx × Addr)) :
    (applyPost s k u).pcStk = s.pcStk := by unfold applyPost; split <;> [rfl; (split <;> simp)]
@[simp] theorem applyPost_lpStk (s : State) (k : Mask) (u : Option (GIx × Addr)) :
    (applyPost s k u).lpStk = s.lpStk := by unfold applyPost; split <;> [rfl; (split <;> simp)]
@[simp] theorem applyPost_stsStk (s : State) (k : Mask) (u : Option (GIx × Addr)) :
    (applyPost s k u).stsStk = s.stsStk := by unfold applyPost; split <;> [rfl; (split <;> simp)]
@[simp] theorem applyPost_dsPending (s : State) (k : Mask) (u : Option (GIx × Addr)) :
    (applyPost s k u).dsPending = s.dsPending := by unfold applyPost; split <;> [rfl; (split <;> simp)]
@[simp] theorem applyPost_dsTarget (s : State) (k : Mask) (u : Option (GIx × Addr)) :
    (applyPost s k u).dsTarget = s.dsTarget := by unfold applyPost; split <;> [rfl; (split <;> simp)]
@[simp] theorem applyPost_prevStore (s : State) (k : Mask) (u : Option (GIx × Addr)) :
    (applyPost s k u).prevStore = s.prevStore := by unfold applyPost; split <;> [rfl; (split <;> simp)]
@[simp] theorem applyPost_cycles (s : State) (k : Mask) (u : Option (GIx × Addr)) :
    (applyPost s k u).cycles = s.cycles := by unfold applyPost; split <;> [rfl; (split <;> simp)]
@[simp] theorem applyPost_errCnt (s : State) (k : Mask) (u : Option (GIx × Addr)) :
    (applyPost s k u).errCnt = s.errCnt := by unfold applyPost; split <;> [rfl; (split <;> simp)]
@[simp] theorem applyPost_errLog (s : State) (k : Mask) (u : Option (GIx × Addr)) :
    (applyPost s k u).errLog = s.errLog := by unfold applyPost; split <;> [rfl; (split <;> simp)]
@[simp] theorem applyPost_halted (s : State) (k : Mask) (u : Option (GIx × Addr)) :
    (applyPost s k u).halted = s.halted := by unfold applyPost; split <;> [rfl; (split <;> simp)]
@[simp] theorem applyPost_im (s : State) (k : Mask) (u : Option (GIx × Addr)) :
    (applyPost s k u).im = s.im := by unfold applyPost; split <;> [rfl; (split <;> simp)]

@[simp] theorem pushPc_params (s : State) (a : Addr) :
    (pushPc s a).params = s.params := by unfold pushPc; split <;> rfl
@[simp] theorem pushPc_lanes (s : State) (a : Addr) :
    (pushPc s a).lanes = s.lanes := by unfold pushPc; split <;> rfl
@[simp] theorem pushPc_i (s : State) (a : Addr) :
    (pushPc s a).i = s.i := by unfold pushPc; split <;> rfl
@[simp] theorem pushPc_m (s : State) (a : Addr) :
    (pushPc s a).m = s.m := by unfold pushPc; split <;> rfl
@[simp] theorem pushPc_l (s : State) (a : Addr) :
    (pushPc s a).l = s.l := by unfold pushPc; split <;> rfl
@[simp] theorem pushPc_b (s : State) (a : Addr) :
    (pushPc s a).b = s.b := by unfold pushPc; split <;> rfl
@[simp] theorem pushPc_pc (s : State) (a : Addr) :
    (pushPc s a).pc = s.pc := by unfold pushPc; split <;> rfl
@[simp] theorem pushPc_cntr (s : State) (a : Addr) :
    (pushPc s a).cntr = s.cntr := by unfold pushPc; split <;> rfl
@[simp] theorem pushPc_mstat (s : State) (a : Addr) :
    (pushPc s a).mstat = s.mstat := by unfold pushPc; split <;> rfl
@[simp] theorem pushPc_lpStk (s : State) (a : Addr) :
    (pushPc s a).lpStk = s.lpStk := by unfold pushPc; split <;> rfl
@[simp] theorem pushPc_stsStk (s : State) (a : Addr) :
    (pushPc s a).stsStk = s.stsStk := by unfold pushPc; split <;> rfl
@[simp] theorem pushPc_dsPending (s : State) (a : Addr) :
    (pushPc s a).dsPending = s.dsPending := by unfold pushPc; split <;> rfl
@[simp] theorem pushPc_dsTarget (s : State) (a : Addr) :
    (pushPc s a).dsTarget = s.dsTarget := by unfold pushPc; split <;> rfl
@[simp] theorem pushPc_prevStore (s : State) (a : Addr) :
    (pushPc s a).prevStore = s.prevStore := by unfold pushPc; split <;> rfl
@[simp] theorem pushPc_cycles (s : State) (a : Addr) :
    (pushPc s a).cycles = s.cycles := by unfold pushPc; split <;> rfl
@[simp] theorem pushPc_errCnt (s : State) (a : Addr) :
    (pushPc s a).errCnt = s.errCnt := by unfold pushPc; split <;> rfl
@[simp] theorem pushPc_errLog (s : State) (a : Addr) :
    (pushPc s a).errLog = s.errLog := by unfold pushPc; split <;> rfl
@[simp] theorem pushPc_halted (s : State) (a : Addr) :
    (pushPc s a).halted = s.halted := by unfold pushPc; split <;> rfl
@[simp] theorem pushPc_im (s : State) (a : Addr) :
    (pushPc s a).im = s.im := by unfold pushPc; split <;> rfl

@[simp] theorem pushLoop_params (s : State) (e : LoopEntry) :
    (pushLoop s e).params = s.params := by unfold pushLoop; split <;> rfl
@[simp] theorem pushLoop_lanes (s : State) (e : LoopEntry) :
    (pushLoop s e).lanes = s.lanes := by unfold pushLoop; split <;> rfl
@[simp] theorem pushLoop_i (s : State) (e : LoopEntry) :
    (pushLoop s e).i = s.i := by unfold pushLoop; split <;> rfl
@[simp] theorem pushLoop_m (s : State) (e : LoopEntry) :
    (pushLoop s e).m = s.m := by unfold pushLoop; split <;> rfl
@[simp] theorem pushLoop_l (s : State) (e : LoopEntry) :
    (pushLoop s e).l = s.l := by unfold pushLoop; split <;> rfl
@[simp] theorem pushLoop_b (s : State) (e : LoopEntry) :
    (pushLoop s e).b = s.b := by unfold pushLoop; split <;> rfl
@[simp] theorem pushLoop_pc (s : State) (e : LoopEntry) :
    (pushLoop s e).pc = s.pc := by unfold pushLoop; split <;> rfl
@[simp] theorem pushLoop_cntr (s : State) (e : LoopEntry) :
    (pushLoop s e).cntr = s.cntr := by unfold pushLoop; split <;> rfl
@[simp] theorem pushLoop_mstat (s : State) (e : LoopEntry) :
    (pushLoop s e).mstat = s.mstat := by unfold pushLoop; split <;> rfl
@[simp] theorem pushLoop_pcStk (s : State) (e : LoopEntry) :
    (pushLoop s e).pcStk = s.pcStk := by unfold pushLoop; split <;> rfl
@[simp] theorem pushLoop_stsStk (s : State) (e : LoopEntry) :
    (pushLoop s e).stsStk = s.stsStk := by unfold pushLoop; split <;> rfl
@[simp] theorem pushLoop_dsPending (s : State) (e : LoopEntry) :
    (pushLoop s e).dsPending = s.dsPending := by unfold pushLoop; split <;> rfl
@[simp] theorem pushLoop_dsTarget (s : State) (e : LoopEntry) :
    (pushLoop s e).dsTarget = s.dsTarget := by unfold pushLoop; split <;> rfl
@[simp] theorem pushLoop_prevStore (s : State) (e : LoopEntry) :
    (pushLoop s e).prevStore = s.prevStore := by unfold pushLoop; split <;> rfl
@[simp] theorem pushLoop_cycles (s : State) (e : LoopEntry) :
    (pushLoop s e).cycles = s.cycles := by unfold pushLoop; split <;> rfl
@[simp] theorem pushLoop_errCnt (s : State) (e : LoopEntry) :
    (pushLoop s e).errCnt = s.errCnt := by unfold pushLoop; split <;> rfl
@[simp] theorem pushLoop_errLog (s : State) (e : LoopEntry) :
    (pushLoop s e).errLog = s.errLog := by unfold pushLoop; split <;> rfl
@[simp] theorem pushLoop_halted (s : State) (e : LoopEntry) :
    (pushLoop s e).halted = s.halted := by unfold pushLoop; split <;> rfl
@[simp] theorem pushLoop_im (s : State) (e : LoopEntry) :
    (pushLoop s e).im = s.im := by unfold pushLoop; split <;> rfl

@[simp] theorem pushStatus_params (s : State) :
    (pushStatus s).params = s.params := by unfold pushStatus; split <;> rfl
@[simp] theorem pushStatus_lanes (s : State) :
    (pushStatus s).lanes = s.lanes := by unfold pushStatus; split <;> rfl
@[simp] theorem pushStatus_i (s : State) :
    (pushStatus s).i = s.i := by unfold pushStatus; split <;> rfl
@[simp] theorem pushStatus_m (s : State) :
    (pushStatus s).m = s.m := by unfold pushStatus; split <;> rfl
@[simp] theorem pushStatus_l (s : State) :
    (pushStatus s).l = s.l := by unfold pushStatus; split <;> rfl
@[simp] theorem pushStatus_b (s : State) :
    (pushStatus s).b = s.b := by unfold pushStatus; split <;> rfl
@[simp] theorem pushStatus_pc (s : State) :
    (pushStatus s).pc = s.pc := by unfold pushStatus; split <;> rfl
@[simp] theorem pushStatus_cntr (s : State) :
    (pushStatus s).cntr = s.cntr := by unfold pushStatus; split <;> rfl
@[simp] theorem pushStatus_mstat (s : State) :
    (pushStatus s).mstat = s.mstat := by unfold pushStatus; split <;> rfl
@[simp] theorem pushStatus_pcStk (s : State) :
    (pushStatus s).pcStk = s.pcStk := by unfold pushStatus; split <;> rfl
@[simp] theorem pushStatus_lpStk (s : State) :
    (pushStatus s).lpStk = s.lpStk := by unfold pushStatus; split <;> rfl
@[simp] theorem pushStatus_dsPending (s : State) :
    (pushStatus s).dsPending = s.dsPending := by unfold pushStatus; split <;> rfl
@[simp] theorem pushStatus_dsTarget (s : State) :
    (pushStatus s).dsTarget = s.dsTarget := by unfold pushStatus; split <;> rfl
@[simp] theorem pushStatus_prevStore (s : State) :
    (pushStatus s).prevStore = s.prevStore := by unfold pushStatus; split <;> rfl
@[simp] theorem pushStatus_cycles (s : State) :
    (pushStatus s).cycles = s.cycles := by unfold pushStatus; split <;> rfl
@[simp] theorem pushStatus_errCnt (s : State) :
    (pushStatus s).errCnt = s.errCnt := by unfold pushStatus; split <;> rfl
@[simp] theorem pushStatus_errLog (s : State) :
    (pushStatus s).errLog = s.errLog := by unfold pushStatus; split <;> rfl
@[simp] theorem pushStatus_halted (s : State) :
    (pushStatus s).halted = s.halted := by unfold pushStatus; split <;> rfl
@[simp] theorem pushStatus_im (s : State) :
    (pushStatus s).im = s.im := by unfold pushStatus; split <;> rfl

@[simp] theorem popStatus_params (s : State) :
    (popStatus s).params = s.params := by unfold popStatus; split <;> rfl
@[simp] theorem popStatus_i (s : State) :
    (popStatus s).i = s.i := by unfold popStatus; split <;> rfl
@[simp] theorem popStatus_m (s : State) :
    (popStatus s).m = s.m := by unfold popStatus; split <;> rfl
@[simp] theorem popStatus_l (s : State) :
    (popStatus s).l = s.l := by unfold popStatus; split <;> rfl
@[simp] theorem popStatus_b (s : State) :
    (popStatus s).b = s.b := by unfold popStatus; split <;> rfl
@[simp] theorem popStatus_pc (s : State) :
    (popStatus s).pc = s.pc := by unfold popStatus; split <;> rfl
@[simp] theorem popStatus_cntr (s : State) :
    (popStatus s).cntr = s.cntr := by unfold popStatus; split <;> rfl
@[simp] theorem popStatus_pcStk (s : State) :
    (popStatus s).pcStk = s.pcStk := by unfold popStatus; split <;> rfl
@[simp] theorem popStatus_lpStk (s : State) :
    (popStatus s).lpStk = s.lpStk := by unfold popStatus; split <;> rfl
@[simp] theorem popStatus_dsPending (s : State) :
    (popStatus s).dsPending = s.dsPending := by unfold popStatus; split <;> rfl
@[simp] theorem popStatus_dsTarget (s : State) :
    (popStatus s).dsTarget = s.dsTarget := by unfold popStatus; split <;> rfl
@[simp] theorem popStatus_prevStore (s : State) :
    (popStatus s).prevStore = s.prevStore := by unfold popStatus; split <;> rfl
@[simp] theorem popStatus_cycles (s : State) :
    (popStatus s).cycles = s.cycles := by unfold popStatus; split <;> rfl
@[simp] theorem popStatus_errCnt (s : State) :
    (popStatus s).errCnt = s.errCnt := by unfold popStatus; split <;> rfl
@[simp] theorem popStatus_errLog (s : State) :
    (popStatus s).errLog = s.errLog := by unfold popStatus; split <;> rfl
@[simp] theorem popStatus_halted (s : State) :
    (popStatus s).halted = s.halted := by unfold popStatus; split <;> rfl
@[simp] theorem popStatus_im (s : State) :
    (popStatus s).im = s.im := by unfold popStatus; split <;> rfl

@[simp] theorem loopStep_params (s : State) :
    (loopStep s).params = s.params := by unfold loopStep; repeat (split <;> try rfl)
@[simp] theorem loopStep_lanes (s : State) :
    (loopStep s).lanes = s.lanes := by unfold loopStep; repeat (split <;> try rfl)
@[simp] theorem loopStep_i (s : State) :
    (loopStep s).i = s.i := by unfold loopStep; repeat (split <;> try rfl)
@[simp] theorem loopStep_m (s : State) :
    (loopStep s).m = s.m := by unfold loopStep; repeat (split <;> try rfl)
@[simp] theorem loopStep_l (s : State) :
    (loopStep s).l = s.l := by unfold loopStep; repeat (split <;> try rfl)
@[simp] theorem loopStep_b (s : State) :
    (loopStep s).b = s.b := by unfold loopStep; repeat (split <;> try rfl)
@[simp] theorem loopStep_cntr (s : State) :
    (loopStep s).cntr = s.cntr := by unfold loopStep; repeat (split <;> try rfl)
@[simp] theorem loopStep_mstat (s : State) :
    (loopStep s).mstat = s.mstat := by unfold loopStep; repeat (split <;> try rfl)
@[simp] theorem loopStep_sstat (s : State) :
    (loopStep s).sstat = s.sstat := by unfold loopStep; repeat (split <;> try rfl)
@[simp] theorem loopStep_pcStk (s : State) :
    (loopStep s).pcStk = s.pcStk := by unfold loopStep; repeat (split <;> try rfl)
@[simp] theorem loopStep_stsStk (s : State) :
    (loopStep s).stsStk = s.stsStk := by unfold loopStep; repeat (split <;> try rfl)
@[simp] theorem loopStep_dsPending (s : State) :
    (loopStep s).dsPending = s.dsPending := by unfold loopStep; repeat (split <;> try rfl)
@[simp] theorem loopStep_dsTarget (s : State) :
    (loopStep s).dsTarget = s.dsTarget := by unfold loopStep; repeat (split <;> try rfl)
@[simp] theorem loopStep_prevStore (s : State) :
    (loopStep s).prevStore = s.prevStore := by unfold loopStep; repeat (split <;> try rfl)
@[simp] theorem loopStep_cycles (s : State) :
    (loopStep s).cycles = s.cycles := by unfold loopStep; repeat (split <;> try rfl)
@[simp] theorem loopStep_errCnt (s : State) :
    (loopStep s).errCnt = s.errCnt := by unfold loopStep; repeat (split <;> try rfl)
@[simp] theorem loopStep_errLog (s : State) :
    (loopStep s).errLog = s.errLog := by unfold loopStep; repeat (split <;> try rfl)
@[simp] theorem loopStep_halted (s : State) :
    (loopStep s).halted = s.halted := by unfold loopStep; repeat (split <;> try rfl)
@[simp] theorem loopStep_im (s : State) :
    (loopStep s).im = s.im := by unfold loopStep; repeat (split <;> try rfl)

@[simp] theorem nextCode_params (s : State) (wasDs : Bool) (target : Option Addr) :
    (nextCode s wasDs target).params = s.params := by
  unfold nextCode; split
  · rfl
  · split
    · split <;> rfl
    · simp
@[simp] theorem nextCode_lanes (s : State) (wasDs : Bool) (target : Option Addr) :
    (nextCode s wasDs target).lanes = s.lanes := by
  unfold nextCode; split
  · rfl
  · split
    · split <;> rfl
    · simp
@[simp] theorem nextCode_i (s : State) (wasDs : Bool) (target : Option Addr) :
    (nextCode s wasDs target).i = s.i := by
  unfold nextCode; split
  · rfl
  · split
    · split <;> rfl
    · simp
@[simp] theorem nextCode_m (s : State) (wasDs : Bool) (target : Option Addr) :
    (nextCode s wasDs target).m = s.m := by
  unfold nextCode; split
  · rfl
  · split
    · split <;> rfl
    · simp
@[simp] theorem nextCode_l (s : State) (wasDs : Bool) (target : Option Addr) :
    (nextCode s wasDs target).l = s.l := by
  unfold nextCode; split
  · rfl
  · split
    · split <;> rfl
    · simp
@[simp] theorem nextCode_b (s : State) (wasDs : Bool) (target : Option Addr) :
    (nextCode s wasDs target).b = s.b := by
  unfold nextCode; split
  · rfl
  · split
    · split <;> rfl
    · simp
@[simp] theorem nextCode_cntr (s : State) (wasDs : Bool) (target : Option Addr) :
    (nextCode s wasDs target).cntr = s.cntr := by
  unfold nextCode; split
  · rfl
  · split
    · split <;> rfl
    · simp
@[simp] theorem nextCode_mstat (s : State) (wasDs : Bool) (target : Option Addr) :
    (nextCode s wasDs target).mstat = s.mstat := by
  unfold nextCode; split
  · rfl
  · split
    · split <;> rfl
    · simp
@[simp] theorem nextCode_sstat (s : State) (wasDs : Bool) (target : Option Addr) :
    (nextCode s wasDs target).sstat = s.sstat := by
  unfold nextCode; split
  · rfl
  · split
    · split <;> rfl
    · simp
@[simp] theorem nextCode_pcStk (s : State) (wasDs : Bool) (target : Option Addr) :
    (nextCode s wasDs target).pcStk = s.pcStk := by
  unfold nextCode; split
  · rfl
  · split
    · split <;> rfl
    · simp
@[simp] theorem nextCode_stsStk (s : State) (wasDs : Bool) (target : Option Addr) :
    (nextCode s wasDs target).stsStk = s.stsStk := by
  unfold nextCode; split
  · rfl
  · split
    · split <;> rfl
    · simp
@[simp] theorem nextCode_prevStore (s : State) (wasDs : Bool) (target : Option Addr) :
    (nextCode s wasDs target).prevStore = s.prevStore := by
  unfold nextCode; split
  · rfl
  · split
    · split <;> rfl
    · simp
@[simp] theorem nextCode_cycles (s : State) (wasDs : Bool) (target : Option Addr) :
    (nextCode s wasDs target).cycles = s.cycles := by
  unfold nextCode; split
  · rfl
  · split
    · split <;> rfl
    · simp
@[simp] theorem nextCode_errCnt (s : State) (wasDs : Bool) (target : Option Addr) :
    (nextCode s wasDs target).errCnt = s.errCnt := by
  unfold nextCode; split
  · rfl
  · split
    · split <;> rfl
    · simp
@[simp] theorem nextCode_errLog (s : State) (wasDs : Bool) (target : Option Addr) :
    (nextCode s wasDs target).errLog = s.errLog := by
  unfold nextCode; split
  · rfl
  · split
    · split <;> rfl
    · simp
@[simp] theorem nextCode_halted (s : State) (wasDs : Bool) (target : Option Addr) :
    (nextCode s wasDs target).halted = s.halted := by
  unfold nextCode; split
  · rfl
  · split
    · split <;> rfl
    · simp
@[simp] theorem nextCode_im (s : State) (wasDs : Bool) (target : Option Addr) :
    (nextCode s wasDs target).im = s.im := by
  unfold nextCode; split
  · rfl
  · split
    · split <;> rfl
    · simp

end Sys2Proof.Machine
end

