-- ==== Sys2Proof/Laws/Lanes.lean ====
section
/-! SUPPORT. Laws of lanes, masks, lane registers, address-generator registers and flag bundles. -/

namespace Sys2Proof.Machine

/-! ## Lanes and masks -/

@[simp] theorem Lanes.get_ofFn {α : Type} (f : LaneId → α) (n : LaneId) :
    (Lanes.ofFn f).get n = f n := by
  match n with
  | 0 => rfl
  | 1 => rfl
  | 2 => rfl
  | 3 => rfl

@[simp] theorem Lanes.get_all {α : Type} (x : α) (n : LaneId) : (Lanes.all x).get n = x := by
  match n with
  | 0 => rfl
  | 1 => rfl
  | 2 => rfl
  | 3 => rfl

/-- The lane of a state depends on its field `lanes` only. -/
theorem lane_congr {s t : State} (h : t.lanes = s.lanes) (n : LaneId) : t.lane n = s.lane n := by
  unfold State.lane; rw [h]

/-- A masked write: the lanes of the mask receive the function's value, the others stay. -/
@[simp] theorem lane_mapMask (s : State) (k : Mask) (f : LaneId → LaneState → LaneState)
    (n : LaneId) :
    (mapMask s k f).lane n = if k.get n then f n (s.lane n) else s.lane n := by
  simp [mapMask, State.lane]

@[simp] theorem realMask_get (s : State) (c : Cond) (n : LaneId) :
    (realMask s c).get n = condHolds c (s.lane n).astatR := by simp [realMask]

@[simp] theorem complexMask_get (s : State) (c : Cond) (n : LaneId) :
    (complexMask s c).get n = condHolds c (s.lane n).astatC := by simp [complexMask]

@[simp] theorem fullMask_get (n : LaneId) : fullMask.get n = true := by simp [fullMask]

/-- `any(mask)` is true iff some lane is active (00_scope.md R13). -/
theorem anyLane_iff (k : Mask) : anyLane k = true ↔ ∃ n, k.get n = true := by
  constructor
  · intro h
    simp only [anyLane, Bool.or_eq_true] at h
    rcases h with ((h | h) | h) | h
    exacts [⟨0, h⟩, ⟨1, h⟩, ⟨2, h⟩, ⟨3, h⟩]
  · rintro ⟨n, h⟩
    simp only [anyLane, Bool.or_eq_true]
    match n, h with
    | 0, h => exact .inl (.inl (.inl h))
    | 1, h => exact .inl (.inl (.inr h))
    | 2, h => exact .inl (.inr h)
    | 3, h => exact .inr h

/-- `first(mask)` is the lowest active lane (00_scope.md R13). -/
theorem firstLane_spec (k : Mask) (h : anyLane k = true) :
    k.get (firstLane k) = true ∧ ∀ m, m < firstLane k → k.get m = false := by
  obtain ⟨a, b, c, d⟩ := k
  revert h
  revert a b c d
  decide

/-! ## Registers of a lane -/

theorem getR_setR (ln : LaneState) (i j : Reg) (v : DWord) :
    getR (setR ln i v) j = if i = j then v else getR ln j := by
  have h : (i.val = j.val) ↔ i = j := Fin.ext_iff.symm
  simp [getR, setR, Vector.getElem_set, h]

theorem getAcc_setAcc (ln : LaneState) (i j : AccIx) (v : AccWord) :
    getAcc (setAcc ln i v) j = if i = j then v else getAcc ln j := by
  have h : (i.val = j.val) ↔ i = j := Fin.ext_iff.symm
  simp [getAcc, setAcc, Vector.getElem_set, h]

/-- Register reads depend on the register file only. -/
theorem getR_congr {a b : LaneState} (h : b.r = a.r) (i : Reg) : getR b i = getR a i := by
  simp [getR, h]

theorem getAcc_congr {a b : LaneState} (h : b.acc = a.acc) (i : AccIx) :
    getAcc b i = getAcc a i := by
  simp [getAcc, h]

@[simp] theorem getR_setAcc (ln : LaneState) (k : AccIx) (v : AccWord) (i : Reg) :
    getR (setAcc ln k v) i = getR ln i := rfl

@[simp] theorem getR_flagsR (ln : LaneState) (ws : FlagWrites) (i : Reg) :
    getR (flagsR ln ws) i = getR ln i := rfl

@[simp] theorem getR_flagsC (ln : LaneState) (fr fi : FlagWrites) (i : Reg) :
    getR (flagsC ln fr fi) i = getR ln i := rfl

@[simp] theorem getAcc_setR (ln : LaneState) (i : Reg) (v : DWord) (k : AccIx) :
    getAcc (setR ln i v) k = getAcc ln k := rfl

@[simp] theorem getAcc_flagsR (ln : LaneState) (ws : FlagWrites) (k : AccIx) :
    getAcc (flagsR ln ws) k = getAcc ln k := rfl

@[simp] theorem getAcc_flagsC (ln : LaneState) (fr fi : FlagWrites) (k : AccIx) :
    getAcc (flagsC ln fr fi) k = getAcc ln k := rfl

/-- The two registers of a pair are different registers. -/
theorem oddOf_ne (r : Reg) : oddOf r ≠ r := by
  revert r; decide

theorem oddAcc_ne (k : AccIx) : oddAcc k ≠ k := by
  revert k; decide

/-! ## Address-generator registers -/

theorem readG_writeG (s : State) (g h : GClass) (j k : GIx) (v : Addr) :
    readG (writeG s g j v) h k = if g = h ∧ j = k then v else readG s h k := by
  have e : (j.val = k.val) ↔ j = k := Fin.ext_iff.symm
  cases g <;> cases h <;> simp [readG, writeG, Vector.getElem_set, e]

/-- Address-generator registers depend on the four register files only. -/
theorem readG_congr {s t : State} (hi : t.i = s.i) (hm : t.m = s.m) (hl : t.l = s.l)
    (hb : t.b = s.b) (g : GClass) (k : GIx) : readG t g k = readG s g k := by
  cases g <;> simp [readG, hi, hm, hl, hb]

/-! ## Flags -/

theorem flagOf_putFlag (b : FlagBundle) (f g : Flag) (v : Bool) :
    flagOf (putFlag b f v) g = if f = g then v else flagOf b g := by
  have hf : f.bit < 12 := by cases f <;> decide
  have hg : g.bit < 12 := by cases g <;> decide
  have he : f.bit = g.bit ↔ f = g := by
    revert hf hg
    cases f <;> cases g <;> simp [Flag.bit]
  have he' : g.bit = f.bit ↔ f = g := by rw [← he]; exact eq_comm
  unfold flagOf putFlag
  cases v <;> by_cases h : f = g <;> simp_all

/-- One flag write: the flag, its sticky partner set with a 1, the others kept (10_state.md R35). -/
theorem flagOf_writeFlag (b : FlagBundle) (f g : Flag) (v : Bool) :
    flagOf (writeFlag b f v) g =
      if f = g then v
      else if f.sticky = some g then flagOf b g || v
      else flagOf b g := by
  cases f <;> cases v <;> cases g <;> simp [writeFlag, Flag.sticky, flagOf_putFlag]

@[simp] theorem setFlags_nil (b : FlagBundle) : setFlags b [] = b := rfl

@[simp] theorem setFlags_cons (b : FlagBundle) (f : Flag) (v : Bool) (ws : FlagWrites) :
    setFlags b ((f, v) :: ws) = setFlags (writeFlag b f v) ws := rfl

/-- A flag that no write names, itself or as sticky partner, keeps its value. -/
theorem flagOf_setFlags_of_not_mem (b : FlagBundle) (ws : FlagWrites) (g : Flag)
    (h : ∀ w ∈ ws, w.1 ≠ g ∧ w.1.sticky ≠ some g) :
    flagOf (setFlags b ws) g = flagOf b g := by
  induction ws generalizing b with
  | nil => rfl
  | cons w ws ih =>
    obtain ⟨f, v⟩ := w
    have hw := h (f, v) (by simp)
    rw [setFlags_cons, ih _ (fun w hm => h w (by simp [hm])), flagOf_writeFlag]
    simp [hw.1, hw.2]

/-- A sticky bit that no write names keeps a 1 (10_state.md R35). -/
theorem flagOf_setFlags_sticky (b : FlagBundle) (ws : FlagWrites) (g : Flag)
    (h : ∀ w ∈ ws, w.1 ≠ g) (hb : flagOf b g = true) : flagOf (setFlags b ws) g = true := by
  induction ws generalizing b with
  | nil => exact hb
  | cons w ws ih =>
    obtain ⟨f, v⟩ := w
    have hw := h (f, v) (by simp)
    rw [setFlags_cons]
    refine ih _ (fun w hm => h w (by simp [hm])) ?_
    rw [flagOf_writeFlag, if_neg hw]
    split <;> simp [hb]

end Sys2Proof.Machine
end

