-- ==== Sys2Proof/Laws/Steps.lean ====
section
/-! SUPPORT. What the end of a step can do, said once: the next address, an error, a completed word
(spec/45_control_flow.md R340, R341; spec/60_exceptions.md R401). Later proofs cite these and unfold
neither `retire` nor `nextCode`. -/

namespace Sys2Proof.Machine

/-- `NextCode` without a taken transfer. -/
theorem nextCode_fallsThrough (s u : State) (hpc : u.pc = s.pc) (hp : u.dsPending = s.dsPending)
    (ht : u.dsTarget = s.dsTarget) : FallsThrough u.lpStk s (nextCode u s.dsPending none) := by
  constructor
  · intro h; simp [nextCode, h, ht]
  · intro h hn
    cases hl : u.lpStk with
    | nil => simp [nextCode, h, loopStep, hl, hpc]
    | cons e rest =>
      have := hn e rest hl
      simp [nextCode, h, loopStep, hl, hpc, this]
  · intro h e rest hl he hf
    simp [nextCode, h, loopStep, hl, hpc, he, hf]
  · intro h e rest hl he hf hc
    have hz : ¬(e.count - 1#16 = 0#16) := fun hz => hc (sub_eq_zero.mp hz)
    simp [nextCode, h, loopStep, hl, hpc, he, hf, hz]
  · intro h e rest hl he hf hc
    simp [nextCode, h, loopStep, hl, hpc, he, hf, hc]
  · cases h : s.dsPending <;> simp [nextCode, hp, h]
  · cases h : s.dsPending <;> simp [nextCode, ht]

/-- `NextCode` with a taken transfer. -/
theorem nextCode_redirects (s u : State) (target : Addr) (hpc : u.pc = s.pc)
    (hd : u.params = s.params) (hp : u.dsPending = s.dsPending) (ht : u.dsTarget = s.dsTarget)
    (hl : u.lpStk = s.lpStk) : Redirects target s (nextCode u s.dsPending (some target)) := by
  constructor
  · intro h; simp [nextCode, h, ht]
  · intro h hs; simp [nextCode, h, hs, hd, ht, hp]
  · intro h hs; simp [nextCode, h, hs, hd, hpc]
  · unfold nextCode
    split
    · exact hl
    · simp only; split <;> exact hl

/-- `retire` keeps everything of the written state but the bookkeeping and the sequencing. -/
theorem retire_wrote_lane (k : WordClass) (s t : State) (g : Option Addr) (n : LaneId) :
    (retire k s (.wrote t g)).lane n = t.lane n := lane_congr (by simp [retire]) n

theorem retire_wrote_address (k : WordClass) (s t : State) (g : Option Addr) :
    AddressKept t (retire k s (.wrote t g)) := by constructor <;> simp [retire]

theorem retire_wrote_control (k : WordClass) (s t : State) (g : Option Addr) :
    ControlKept t (retire k s (.wrote t g)) := by constructor <;> simp [retire]

theorem retire_wrote_stacks (k : WordClass) (s t : State) (g : Option Addr) :
    StacksKept t (retire k s (.wrote t g)) := by constructor <;> simp [retire]

theorem retire_wrote_machine (k : WordClass) (s t : State) (g : Option Addr) :
    MachineKept t (retire k s (.wrote t g)) := by constructor <;> simp [retire]

theorem retire_wrote_errors (k : WordClass) (s t : State) (g : Option Addr) :
    NoError t (retire k s (.wrote t g)) := by constructor <;> simp [retire]

/-- Cycles and `prev_store` of a completed word (70_reset_and_hazards.md R460). -/
theorem retire_wrote_tally (k : WordClass) (s t : State) (g : Option Addr) :
    (retire k s (.wrote t g)).cycles = t.cycles + 1 + latencyAdded k s ∧
      (retire k s (.wrote t g)).prevStore = k.store := by simp [retire, tally]

/-- Sequencing of a completed word without a taken transfer. -/
theorem retire_wrote_flow (k : WordClass) (s t : State) (hpc : t.pc = s.pc)
    (hp : t.dsPending = s.dsPending) (ht : t.dsTarget = s.dsTarget) :
    FallsThrough t.lpStk s (retire k s (.wrote t none)) :=
  nextCode_fallsThrough s (tally t (latencyAdded k s) k.store) hpc hp ht

/-- Sequencing of a completed word with a taken transfer. -/
theorem retire_wrote_redirects (k : WordClass) (s t : State) (g : Addr) (hpc : t.pc = s.pc)
    (hd : t.params = s.params) (hp : t.dsPending = s.dsPending) (ht : t.dsTarget = s.dsTarget)
    (hl : t.lpStk = s.lpStk) : Redirects g s (retire k s (.wrote t (some g))) :=
  nextCode_redirects s (tally t (latencyAdded k s) k.store) g hpc hd hp ht hl

/-- A raised error: the whole of its effect (60_exceptions.md R401, R407). -/
theorem retire_raised (k : WordClass) (s : State) (cls : ErrorClass) (info : ErrorInfo) :
    ErrorStep cls s (retire k s (.raised cls info)) := by
  have hf := nextCode_fallsThrough s (tally (raiseError s cls info) 0 false) rfl rfl rfl
  constructor
  · intro n; exact lane_congr (by simp [retire]) n
  · constructor <;> simp [retire]
  · constructor <;> simp [retire]
  · constructor <;> simp [retire]
  · constructor <;> simp [retire]
  · exact hf
  · simp [retire, raiseError]
  · exact ⟨info, by simp [retire, raiseError]⟩
  · simp [retire, tally]
  · simp [retire, tally]

/-- A completed word that wrote nothing shared: its lanes are those written, nothing else moved. -/
theorem retire_onlyLanes (k : WordClass) (s : State) (m : Mask)
    (f : LaneId → LaneState → LaneState) :
    OnlyLanes s (retire k s (.wrote (mapMask s m f) none)) ∧
      ∀ n, (retire k s (.wrote (mapMask s m f) none)).lane n =
        if m.get n then f n (s.lane n) else s.lane n := by
  refine ⟨⟨?_, ?_, ?_, ?_, ?_, ?_⟩, fun n => ?_⟩
  · constructor <;> simp [retire]
  · constructor <;> simp [retire]
  · constructor <;> simp [retire]
  · constructor <;> simp [retire]
  · constructor <;> simp [retire]
  · exact retire_wrote_flow k s (mapMask s m f) rfl rfl rfl
  · rw [retire_wrote_lane, lane_mapMask]

end Sys2Proof.Machine
end

