-- ==== Sys2Proof/Laws/Checks.lean ====
section
/-! SUPPORT. When the read-phase checks hold, in the terms of Safety.lean: addresses, static delay slots,
structural checks; and the shared writes under a mask (spec/20_memory.md R86, 45_control_flow.md R326,
R327; 10_state.md R42). -/

namespace Sys2Proof.Machine

/-! ## Addresses -/

theorem lowBit_iff (a : Addr) : a.getLsbD 0 = true ↔ a.toNat % 2 = 1 := by
  simp [BitVec.getLsbD, Nat.testBit_zero]

theorem addrCheck_ok (s : State) (cplx : Bool) (ea : Addr) (h : AddressOk s cplx ea) :
    addrCheck s cplx ea = none := by
  obtain ⟨h1, h2⟩ := h
  have hb := lowBit_iff ea
  unfold addrCheck
  cases cplx
  · simp; omega
  · have h3 := h2 rfl
    have : ea.getLsbD 0 = false := by
      cases hx : ea.getLsbD 0
      · rfl
      · have := hb.mp hx; omega
    simp only [this]
    simp; omega

theorem addrCheck_bad (s : State) (cplx : Bool) (ea : Addr) (h : ¬AddressOk s cplx ea) :
    addrCheck s cplx ea = some (.address ea) := by
  have hb := lowBit_iff ea
  by_contra hc
  apply h
  unfold addrCheck at hc
  cases hl : ea.getLsbD 0 <;> cases cplx <;> simp_all [AddressOk]

/-! ## Control transfers -/

theorem isTransfer_iff (i : Instr) : isTransfer i = true ↔
    (∃ off c, i = .jump off c) ∨ (∃ off c, i = .call off c) ∨ ∃ c, i = .rts c := by
  cases i <;> simp [isTransfer]

theorem inStaticSlot_iff (s : State) : inStaticSlot s = true ↔ StaticSlot s := by
  unfold inStaticSlot StaticSlot
  rw [Bool.and_eq_true]
  apply and_congr_right
  intro _
  cases hw : imWord s (s.pc - 1) with
  | none => simp
  | some w =>
    cases hd : decode w with
    | error e => simp [hd]
    | ok i => simp [hd, isTransfer_iff]

theorem transferCheck_true (s : State) : transferCheck s true = none ↔ TransferOk s := by
  unfold transferCheck TransferOk AtLoopEnd SlotAtLoopEnd
  rw [← inStaticSlot_iff]
  cases inStaticSlot s
  · cases hl : s.lpStk with
    | nil => simp
    | cons e rest =>
      by_cases h : s.pc = e.last
      · simp [h]
      · cases hd : s.params.delaySlot <;> simp [h]
  · simp

theorem transferCheck_false (s : State) : transferCheck s false = none ↔ LoopOk s := by
  unfold transferCheck LoopOk AtLoopEnd
  rw [← inStaticSlot_iff]
  cases inStaticSlot s
  · cases hl : s.lpStk with
    | nil => simp
    | cons e rest =>
      by_cases h : s.pc = e.last <;> simp [h]
  · simp

/-! ## Post-modify updates -/

theorem anyLane_realMask (s : State) (c : Cond) :
    anyLane (realMask s c) = true ↔ ∃ n, condHolds c (s.lane n).astatR = true := by
  rw [anyLane_iff]; simp

theorem anyLane_complexMask (s : State) (c : Cond) :
    anyLane (complexMask s c) = true ↔ ∃ n, condHolds c (s.lane n).astatC = true := by
  rw [anyLane_iff]; simp

/-- A post-modify write reaches no lane. -/
theorem applyPost_lane (s : State) (k : Mask) (u : Option (GIx × Addr)) (n : LaneId) :
    (applyPost s k u).lane n = s.lane n := lane_congr (by simp) n

/-- With an active lane the update is made. -/
theorem applyPost_some (s : State) (k : Mask) (i : GIx) (v : Addr) (h : anyLane k = true) :
    applyPost s k (some (i, v)) = writeG s .i i v := by simp [applyPost, h]

/-- Without an active lane nothing is written. -/
theorem applyPost_idle (s : State) (k : Mask) (u : Option (GIx × Addr)) (h : anyLane k = false) :
    applyPost s k u = s := by
  cases u <;> simp [applyPost, h]

theorem postUpdate_eq (s : State) (mode : Mode) :
    (postUpdate s mode).toList = modeWrites s mode := by
  cases mode <;> rfl

end Sys2Proof.Machine
end

