-- ==== Sys2Proof/Laws/Values.lean ====
section
/-! SUPPORT. What the shared arithmetic computes, in the terms of Safety.lean: adder, logic, absolute
value, negate, multiply-accumulate, shift (spec/40_alu.md R182, 42_mac.md R233,
43_shift_divide.md R252). -/

namespace Sys2Proof.Machine

/-! ## Adder -/

theorem msb_iff (x : DWord) : x.msb = decide (2048 ≤ x.toNat) := by
  have := x.isLt
  rw [BitVec.msb_eq_decide]

/-- The signed reading of a 12-bit value by its unsigned reading. -/
theorem toInt_cases (x : DWord) :
    (x.toNat < 2048 ∧ x.toInt = x.toNat) ∨ (2048 ≤ x.toNat ∧ x.toNat < 4096 ∧ x.toInt = x.toNat - 4096) := by
  have := x.isLt
  rw [BitVec.toInt_eq_toNat_cond]
  split <;> omega

theorem add12_overflow (x y : DWord) (c : Bool) :
    (add12 x y c).overflow = overflows12 (x.toInt + y.toInt + c.toNat) := by
  have hx := toInt_cases x
  have hy := toInt_cases y
  have hc : c.toNat = 0 ∨ c.toNat = 1 := by cases c <;> simp
  simp only [add12, overflows12, msb_iff, BitVec.toNat_ofNat]
  generalize c.toNat = k at *
  rw [Bool.eq_iff_iff]
  simp only [Bool.and_eq_true, beq_iff_eq, decide_eq_decide, bne_iff_ne, ne_eq, decide_eq_true_eq]
  omega

theorem sub12_overflow (x y : DWord) (c : Bool) :
    (sub12 x y c).overflow = overflows12 (x.toInt - y.toInt - 1 + c.toNat) := by
  have hx := toInt_cases x
  have hy := toInt_cases y
  have hc : c.toNat = 0 ∨ c.toNat = 1 := by cases c <;> simp
  simp only [sub12, add12, overflows12, msb_iff, BitVec.toNat_ofNat, BitVec.toNat_not]
  generalize c.toNat = k at *
  rw [Bool.eq_iff_iff]
  simp only [Bool.and_eq_true, bne_iff_ne, ne_eq, decide_eq_decide, decide_eq_true_eq]
  omega

/-- Result and carries of the seven two-source operations. -/
theorem aluCompute_r (op : AluOp) (x y : DWord) (c : Bool) :
    (aluCompute op x y c).r = aluValue op x y c := by
  have hx := x.isLt
  have hy := y.isLt
  cases op <;>
    simp only [aluCompute, Sum.computed, add12, sub12, logicResult, aluValue] <;>
    apply BitVec.eq_of_toNat_eq <;> cases c <;> simp [BitVec.toNat_sub] <;> omega

theorem aluCompute_flags (op : AluOp) (x y : DWord) (c : Bool) :
    (aluCompute op x y c).flags =
      aluFlags (aluValue op x y c) (aluOverflow op x y c) (aluCarry op x y c) := by
  have hr := aluCompute_r op x y c
  have hx := x.isLt
  have hy := y.isLt
  cases op <;>
    simp only [aluCompute, Sum.computed, logicResult, aluOverflow, aluCarry] at hr ⊢ <;>
    rw [hr] <;>
    simp only [add12_overflow, sub12_overflow] <;>
    congr 1 <;>
    simp only [sub12, add12, BitVec.toNat_not, Bool.toNat_true, Bool.toNat_false] <;>
    first
      | (simp only [decide_eq_decide]; omega)
      | (congr 1; push_cast; ring)

/-- What writing the flags of an ALU result does to a bundle. -/
theorem aluFlags_spec (b : FlagBundle) (r : DWord) (v c : Bool) :
    AluFlags r v c b (setFlags b (aluFlags r v c)) := by
  constructor <;>
    simp [aluFlags, flagOf_writeFlag, Flag.sticky, beq_eq_decide]

theorem aluFlags_frame (b : FlagBundle) (r : DWord) (v c : Bool) (f : Flag)
    (h : f ∉ aluFlagSet) : flagOf (setFlags b (aluFlags r v c)) f = flagOf b f := by
  apply flagOf_setFlags_of_not_mem
  revert h
  cases f <;> simp [aluFlags, aluFlagSet, Flag.sticky]

/-- What writing the combined flags of two ALU results does to a bundle (41_complex.md R212). -/
theorem combineFlags_spec (b : FlagBundle) (r i : DWord) (vr vi cr ci : Bool) :
    CombinedFlags r i vr vi cr ci b
      (setFlags b (combineFlags (aluFlags r vr cr) (aluFlags i vi ci))) := by
  constructor <;>
    simp [aluFlags, combineFlags, flagOf_writeFlag, Flag.sticky, beq_eq_decide]

theorem combineFlags_frame (b : FlagBundle) (r i : DWord) (vr vi cr ci : Bool) (f : Flag)
    (h : f ∉ aluFlagSet) :
    flagOf (setFlags b (combineFlags (aluFlags r vr cr) (aluFlags i vi ci))) f = flagOf b f := by
  apply flagOf_setFlags_of_not_mem
  revert h
  cases f <;> simp [aluFlags, aluFlagSet, combineFlags, Flag.sticky]

/-! ## Absolute value and negate -/

theorem abs_negate (x : DWord) : trunc 12 (-x.toInt) = -x := by
  rw [trunc, BitVec.ofInt_neg, BitVec.ofInt_toInt]

theorem negCompute_r (x : DWord) : (negCompute x).r = -x := by
  have := x.isLt
  apply BitVec.eq_of_toNat_eq
  simp [negCompute]
  omega

theorem negCompute_flags (x : DWord) :
    (negCompute x).flags = aluFlags (-x) (decide (x = 0x800)) (decide (x = 0)) := by
  have hr := negCompute_r x
  have := x.isLt
  have h0 : (x = 0) ↔ x.toNat = 0 := by rw [← BitVec.toNat_inj]; simp
  simp only [negCompute, beq_eq_decide] at hr ⊢
  rw [hr]
  congr 1
  simp only [BitVec.toNat_not, decide_eq_decide, h0]
  omega

theorem absCompute_r (x : DWord) : (absCompute x).r = if x.msb then -x else x := by
  simp only [absCompute, abs_negate]

theorem absCompute_flags (x : DWord) :
    (absCompute x).flags =
      aluFlags (if x.msb then -x else x) (decide (x = 0x800)) false ++ [(.asn, x.msb)] := by
  simp only [absCompute, abs_negate, beq_eq_decide]

/-! ## Multiplier -/

theorem macProduct_eq (o : MacOpt) (x y : DWord) : macProduct o x y = macX o x * macY o y := by
  cases o <;> rfl

theorem macExact_eq (kind : MacKind) (o : MacOpt) (a : AccWord) (p : Int) :
    macExact kind a p (macMode o).round = macResult kind o a p := by
  cases kind <;> cases o <;> simp [macExact, macResult, macMode]

theorem saturate32_spec (n : Int) : Saturated n (saturate32 n) := by
  unfold Saturated saturate32 trunc
  split
  · rw [BitVec.toInt_ofInt]; simp only [Int.bmod]; omega
  · split
    · rw [BitVec.toInt_ofInt]; simp only [Int.bmod]; omega
    · rw [BitVec.toInt_ofInt]; simp only [Int.bmod]; omega

theorem macMv_eq (n : Int) : macMv n = mvOf n := by
  unfold macMv mvOf
  rw [Bool.eq_iff_iff]
  simp only [Bool.or_eq_true, decide_eq_true_eq]
  omega

/-- What writing `MV` does to a bundle (42_mac.md R234). -/
theorem mvFlags_spec (b : FlagBundle) (v : Bool) : MvFlags v b (setFlags b [(.mv, v)]) := by
  constructor <;> simp [flagOf_writeFlag, Flag.sticky]

theorem mvFlags_frame (b : FlagBundle) (v : Bool) (f : Flag) (h : f ∉ [Flag.mv, Flag.mvs]) :
    flagOf (setFlags b [(.mv, v)]) f = flagOf b f := by
  apply flagOf_setFlags_of_not_mem
  revert h
  cases f <;> simp [Flag.sticky]

/-- One lane of a real multiplier operation. -/
theorem macLane_spec (kind : MacKind) (o : MacOpt) (acc : AccIx) (rx ry : Reg) (ln : LaneState) :
    let n := macResult kind o (getAcc ln acc) (macX o (getR ln rx) * macY o (getR ln ry))
    macLane kind o acc rx ry ln = flagsR (setAcc ln acc (saturate32 n)) [(.mv, mvOf n)] := by
  simp only [macLane, macProduct_eq, macExact_eq, macMv_eq]

/-! ## Shifter -/

theorem clampShift_eq (n : Int) : clampShift n = clamped n := by
  unfold clampShift clamped
  split <;> [omega; (split <;> omega)]

theorem shiftAmount_eq (y : YOperand) (ln : LaneState) :
    shiftAmount y ln = clamped (amountOf y ln) := by
  cases y <;> simp only [shiftAmount, amountOf, clampShift_eq]

theorem shiftCompute_r (kind : ShiftKind) (x : DWord) (n : Int) :
    (shiftCompute kind x n).r = shiftValue kind x n := by
  unfold shiftCompute shiftValue
  split
  · cases kind
    · apply BitVec.eq_of_toInt_eq
      simp only [trunc, BitVec.toInt_ofInt, BitVec.toInt_shiftLeft, Nat.shiftLeft_eq]
      rw [BitVec.toInt_eq_toNat_bmod, Int.bmod_mul_bmod]
      push_cast
      rfl
    · apply BitVec.eq_of_toNat_eq
      simp [BitVec.toNat_shiftLeft, Nat.shiftLeft_eq]
  · cases kind
    · apply BitVec.eq_of_toInt_eq
      simp only [trunc, BitVec.toInt_ofInt, BitVec.toInt_sshiftRight, Int.shiftRight_eq_div_pow]
      push_cast
      apply Int.bmod_eq_of_le
      · have hx : -2048 ≤ x.toInt := by have := toInt_cases x; omega
        have hp : (1 : Int) ≤ 2 ^ (-n).toNat := one_le_pow₀ (by norm_num)
        have := Int.le_ediv_of_mul_le (a := -2048) (b := x.toInt)
          (c := 2 ^ (-n).toNat) (by omega) (by nlinarith)
        omega
      · have hx : x.toInt < 2048 := by have := toInt_cases x; omega
        have hp : (1 : Int) ≤ 2 ^ (-n).toNat := one_le_pow₀ (by norm_num)
        have := Int.ediv_lt_of_lt_mul (a := x.toInt) (b := 2048)
          (c := 2 ^ (-n).toNat) (by omega) (by nlinarith)
        omega
    · apply BitVec.eq_of_toNat_eq
      have := x.isLt
      have h2 : x.toNat / 2 ^ (-n).toNat ≤ x.toNat := Nat.div_le_self _ _
      simp [BitVec.toNat_ushiftRight, Nat.shiftRight_eq_div_pow]
      omega

theorem shiftCompute_flags (kind : ShiftKind) (x : DWord) (n : Int) :
    (shiftCompute kind x n).flags = [(.ss, x.msb), (.sv, shiftOverflow kind x n)] := by
  have hr := shiftCompute_r kind x n
  unfold shiftCompute shiftOverflow at *
  split
  · rename_i h
    cases kind
    · simp only [h, decide_true, Bool.true_and, overflows12]
      congr 3
      rw [Bool.eq_iff_iff]
      simp only [bne_iff_ne, ne_eq, decide_eq_true_eq]
      generalize x.toInt * 2 ^ n.toNat = full
      simp only [trunc, BitVec.toInt_ofInt, Int.bmod]
      omega
    · simp [h]
  · rename_i h
    cases kind <;> simp [h]

/-- What writing the shifter flags does to a bundle. -/
theorem shiftFlags_spec (b : FlagBundle) (m v : Bool) :
    flagOf (setFlags b [(.ss, m), (.sv, v)]) .ss = m ∧
      flagOf (setFlags b [(.ss, m), (.sv, v)]) .sv = v ∧
      flagOf (setFlags b [(.ss, m), (.sv, v)]) .svs = (flagOf b .svs || v) := by
  simp [flagOf_writeFlag, Flag.sticky]

theorem shiftFlags_frame (b : FlagBundle) (m v : Bool) (f : Flag) (h : f ∉ shiftFlagSet) :
    flagOf (setFlags b [(.ss, m), (.sv, v)]) f = flagOf b f := by
  apply flagOf_setFlags_of_not_mem
  revert h
  cases f <;> simp [shiftFlagSet, Flag.sticky]

end Sys2Proof.Machine
end

