-- ==== Sys2Proof/Laws/Verdicts.lean ====
section
/-! SUPPORT. Every step of a decoded instruction said once: it is the retirement of the instruction's
verdict, and every verdict is of one of a few shapes. Proofs about all instructions cite `exec_eq` and
`verdict_cases` and unfold no meaning. -/

namespace Sys2Proof.Machine

/-- The verdict of an instruction in a state: what its meaning hands to `complete`. -/
def verdictOf : Instr → State → Verdict
  | .nop, s => .wrote s none
  | .reset, s => .wrote (softReset s) none
  | .pushSts, s => .wrote (pushStatus s) none
  | .popSts, s => .wrote (popStatus s) none
  | .jump off c, s => jumpVerdict off c s
  | .call off c, s => callVerdict off c s
  | .rts c, s => rtsVerdict c s
  | .doUntil off term, s =>
    checkedTransfer s false (.wrote (pushLoop s (loopEntry s off term)) none)
  | .addRRR rd rx ry c, s => aluVerdict .add rd rx (.reg ry) c s
  | .addcRRR rd rx ry c, s => aluVerdict .addc rd rx (.reg ry) c s
  | .subRRR rd rx ry c, s => aluVerdict .sub rd rx (.reg ry) c s
  | .subbRRR rd rx ry c, s => aluVerdict .subb rd rx (.reg ry) c s
  | .andRRR rd rx ry c, s => aluVerdict .and rd rx (.reg ry) c s
  | .orRRR rd rx ry c, s => aluVerdict .or rd rx (.reg ry) c s
  | .xorRRR rd rx ry c, s => aluVerdict .xor rd rx (.reg ry) c s
  | .notRR rd rx c, s => unaryVerdict (fun x => logicResult (~~~x)) rd rx c s
  | .absRR rd rx c, s => unaryVerdict absCompute rd rx c s
  | .negRR rd rx c, s => unaryVerdict negCompute rd rx c s
  | .cpRR rd rx c, s => moveVerdict (realMask s c) s fun _ ln => setR ln rd (getR ln rx)
  | .ashiftRRR rd rx ry c, s => shiftVerdict .arith rd rx (.reg ry) c s
  | .lshiftRRR rd rx ry c, s => shiftVerdict .logic rd rx (.reg ry) c s
  | .divsRRR rd rx ry c, s => divideVerdict Config.divs rd rx ry c s
  | .divqRRR rd rx ry c, s => divideVerdict Config.divq rd rx ry c s
  | .addRRI rd rx imm c, s => aluVerdict .add rd rx (.imm imm) c s
  | .addcRRI rd rx imm c, s => aluVerdict .addc rd rx (.imm imm) c s
  | .subRRI rd rx imm c, s => aluVerdict .sub rd rx (.imm imm) c s
  | .subbRRI rd rx imm c, s => aluVerdict .subb rd rx (.imm imm) c s
  | .andRRI rd rx imm c, s => aluVerdict .and rd rx (.imm imm) c s
  | .orRRI rd rx imm c, s => aluVerdict .or rd rx (.imm imm) c s
  | .xorRRI rd rx imm c, s => aluVerdict .xor rd rx (.imm imm) c s
  | .ashiftRRI rd rx imm c, s => shiftVerdict .arith rd rx (.imm imm) c s
  | .lshiftRRI rd rx imm c, s => shiftVerdict .logic rd rx (.imm imm) c s
  | .addC rd rx ry c, s => complexVerdict .add rd rx ry c s
  | .subC rd rx ry c, s => complexVerdict .sub rd rx ry c s
  | .conjC rd rx c, s => conjVerdict rd rx c s
  | .polarC rd rx c, s => convertVerdict Config.polar rd rx c s
  | .rectC rd rx c, s => convertVerdict Config.rect rd rx c s
  | .cpC rd rx c, s =>
    moveVerdict (complexMask s c) s
      fun _ ln => setR (setR ln rd (getR ln rx)) (oddOf rd) (getR ln (oddOf rx))
  | .mpy opt acc rx ry c, s => macVerdict .mpy opt acc rx ry c s
  | .mac opt acc rx ry c, s => macVerdict .mac opt acc rx ry c s
  | .mas opt acc rx ry c, s => macVerdict .mas opt acc rx ry c s
  | .mpyC conj opt acc rx ry c, s => macComplexVerdict .mpy conj opt acc rx ry c s
  | .macC conj opt acc rx ry c, s => macComplexVerdict .mac conj opt acc rx ry c s
  | .masC conj opt acc rx ry c, s => macComplexVerdict .mas conj opt acc rx ry c s
  | .cpVR v acc rx c, s =>
    moveVerdict (realMask s c) s
      fun _ ln => setAcc ln acc (writeView v (getAcc ln acc) (getR ln rx))
  | .cpRV rd v acc c, s =>
    moveVerdict (realMask s c) s fun _ ln => setR ln rd (readView v (getAcc ln acc))
  | .cpAA accd accs c, s => moveVerdict (realMask s c) s fun _ ln => setAcc ln accd (getAcc ln accs)
  | .cpGR g k rx c, s =>
    .wrote (if anyLane (realMask s c)
      then writeG s g k (widenG g (firstValue s (realMask s c) rx)) else s) none
  | .cpRG rd g k c, s =>
    moveVerdict (realMask s c) s fun _ ln => setR ln rd ((readG s g k).extractLsb' 0 12)
  | .cpCR ctl rx c, s => writeCtlVerdict ctl rx c s
  | .cpRC rd ctl c, s => moveVerdict (realMask s c) s fun n ln => setR ln rd (readCtl s n ctl)
  | .ldRI rd imm c, s => moveVerdict (realMask s c) s fun _ ln => setR ln rd imm
  | .ldGI g k imm, s => .wrote (writeG s g k imm) none
  | .ldCI ctl imm, s => loadCtlVerdict ctl imm s
  | .ldAbs r a, s => loadVerdict (.abs a) fullMask r s
  | .stAbs r a, s => storeVerdict (.abs a) fullMask r s
  | .ldCAbs r a, s => loadPairVerdict (.abs a) fullMask r s
  | .stCAbs r a, s => storePairVerdict (.abs a) fullMask r s
  | .ldPostM r i m c, s => loadVerdict (.postM i m) (realMask s c) r s
  | .stPostM r i m c, s => storeVerdict (.postM i m) (realMask s c) r s
  | .ldCPostM r i m c, s => loadPairVerdict (.postM i m) (complexMask s c) r s
  | .stCPostM r i m c, s => storePairVerdict (.postM i m) (complexMask s c) r s
  | .ldPreM r i m c, s => loadVerdict (.preM i m) (realMask s c) r s
  | .stPreM r i m c, s => storeVerdict (.preM i m) (realMask s c) r s
  | .ldCPreM r i m c, s => loadPairVerdict (.preM i m) (complexMask s c) r s
  | .stCPreM r i m c, s => storePairVerdict (.preM i m) (complexMask s c) r s
  | .ldPostI r i imm c, s => loadVerdict (.postI i imm) (realMask s c) r s
  | .stPostI r i imm c, s => storeVerdict (.postI i imm) (realMask s c) r s
  | .ldCPostI r i imm c, s => loadPairVerdict (.postI i imm) (complexMask s c) r s
  | .stCPostI r i imm c, s => storePairVerdict (.postI i imm) (complexMask s c) r s
  | .ldPreI r i imm c, s => loadVerdict (.preI i imm) (realMask s c) r s
  | .stPreI r i imm c, s => storeVerdict (.preI i imm) (realMask s c) r s
  | .ldCPreI r i imm c, s => loadPairVerdict (.preI i imm) (complexMask s c) r s
  | .stCPreI r i imm c, s => storePairVerdict (.preI i imm) (complexMask s c) r s
  | .addLd rd rx ry lrd li lm c, s => aluLdVerdict .add rd rx ry lrd li lm c s
  | .addcLd rd rx ry lrd li lm c, s => aluLdVerdict .addc rd rx ry lrd li lm c s
  | .subLd rd rx ry lrd li lm c, s => aluLdVerdict .sub rd rx ry lrd li lm c s
  | .subbLd rd rx ry lrd li lm c, s => aluLdVerdict .subb rd rx ry lrd li lm c s
  | .andLd rd rx ry lrd li lm c, s => aluLdVerdict .and rd rx ry lrd li lm c s
  | .orLd rd rx ry lrd li lm c, s => aluLdVerdict .or rd rx ry lrd li lm c s
  | .xorLd rd rx ry lrd li lm c, s => aluLdVerdict .xor rd rx ry lrd li lm c s
  | .mpyLd opt acc rx ry lrd li lm c, s => macLdVerdict .mpy opt acc rx ry lrd li lm c s
  | .macLd opt acc rx ry lrd li lm c, s => macLdVerdict .mac opt acc rx ry lrd li lm c s
  | .masLd opt acc rx ry lrd li lm c, s => macLdVerdict .mas opt acc rx ry lrd li lm c s
  | .mpyLdLd opt acc rx ry l1rd l1i l1m l2rd l2i l2m c, s =>
    macLdLdVerdict .mpy opt acc rx ry l1rd l1i l1m l2rd l2i l2m c s
  | .macLdLd opt acc rx ry l1rd l1i l1m l2rd l2i l2m c, s =>
    macLdLdVerdict .mac opt acc rx ry l1rd l1i l1m l2rd l2i l2m c s
  | .masLdLd opt acc rx ry l1rd l1i l1m l2rd l2i l2m c, s =>
    macLdLdVerdict .mas opt acc rx ry l1rd l1i l1m l2rd l2i l2m c s
  | .ashiftSt rd rx ry srs si sm c, s => shiftStVerdict .arith rd rx ry srs si sm c s
  | .lshiftSt rd rx ry srs si sm c, s => shiftStVerdict .logic rd rx ry srs si sm c s

/-- Every instruction completes: its step retires its verdict. -/
theorem exec_eq (i : Instr) (s : State) :
    exec i s = .next (retire (wordClass i) s (verdictOf i s)) := by
  cases i <;> rfl

/-- What a completed step of an instruction is. -/
theorem exec_next {i : Instr} {s t : State} (h : exec i s = .next t) :
    t = retire (wordClass i) s (verdictOf i s) := by
  rw [exec_eq] at h
  injection h with h
  exact h.symm

/-! ## Shapes of verdicts -/

/-- The flag writes name no sticky bit, so they can only set one (10_state.md R35). -/
def NoSticky (ws : FlagWrites) : Prop := ∀ w ∈ ws, w.1 ≠ .avs ∧ w.1 ≠ .mvs ∧ w.1 ≠ .svs

/-- What a lane function of an instruction may do: it keeps the canonical form and the range of data
memory, and a sticky bit is cleared only by a whole-bundle write. -/
structure LaneEffect (s : State) (i : Instr) (f : LaneId → LaneState → LaneState) : Prop where
  form : ∀ n ln, memWf ln.dm = true → memWf (f n ln).dm = true
  range : ∀ n ln, memBelow s.params.dmWords ln.dm = true →
    memBelow s.params.dmWords (f n ln).dm = true
  sticky :
    (∀ ctl rx c, i = .cpCR ctl rx c → ctl ≠ .astatR ∧ ctl ≠ .astatI ∧ ctl ≠ .astatC) →
    (∀ ctl imm, i = .ldCI ctl imm → ctl ≠ .astatR ∧ ctl ≠ .astatI ∧ ctl ≠ .astatC) →
    ∀ n ln (g : Flag), g = .avs ∨ g = .mvs ∨ g = .svs →
      (flagOf ln.astatR g = true → flagOf (f n ln).astatR g = true) ∧
      (flagOf ln.astatI g = true → flagOf (f n ln).astatI g = true) ∧
      (flagOf ln.astatC g = true → flagOf (f n ln).astatC g = true)

/-- The shapes a verdict can have: an error; a masked write of the lanes, with or without post-modify
updates; one write of shared state. -/
inductive VerdictShape (i : Instr) (s : State) : Verdict → Prop
  | raised (cls : ErrorClass) (info : ErrorInfo) :
      info.fits cls = true → VerdictShape i s (.raised cls info)
  | lanes (k : Mask) (f : LaneId → LaneState → LaneState) :
      (∀ n, laneSelected i s n = k.get n) → LaneEffect s i f →
      VerdictShape i s (.wrote (mapMask s k f) none)
  | mem (k : Mask) (f : LaneId → LaneState → LaneState) (u1 u2 : Option (GIx × Addr)) :
      (∀ n, laneSelected i s n = k.get n) → LaneEffect s i f →
      VerdictShape i s (.wrote (applyPost (applyPost (mapMask s k f) k u1) k u2) none)
  | index (g : GClass) (k : GIx) (v : Addr) : VerdictShape i s (.wrote (writeG s g k v) none)
  | same (g : Option Addr) : VerdictShape i s (.wrote s g)
  | cntr (v : BitVec 16) : VerdictShape i s (.wrote { s with cntr := v } none)
  | mstat (v : BitVec 1) : VerdictShape i s (.wrote { s with mstat := v } none)
  | pushPc (a : Addr) (g : Option Addr) : VerdictShape i s (.wrote (pushPc s a) g)
  | popPc (a : Addr) (rest : List Addr) :
      s.pcStk = a :: rest → VerdictShape i s (.wrote { s with pcStk := rest } (some a))
  | underflow : VerdictShape i s (.wrote (markStack s 1) none)
  | pushLoop (e : LoopEntry) :
      (∃ off term, i = .doUntil off term) → VerdictShape i s (.wrote (pushLoop s e) none)
  | pushStatus : i = .pushSts → VerdictShape i s (.wrote (pushStatus s) none)
  | popStatus : i = .popSts → VerdictShape i s (.wrote (popStatus s) none)
  | reset : i = .reset → VerdictShape i s (.wrote (softReset s) none)

theorem sticky_kept (ws : FlagWrites) (h : NoSticky ws) (b : FlagBundle) (g : Flag)
    (hg : g = .avs ∨ g = .mvs ∨ g = .svs) :
    flagOf b g = true → flagOf (setFlags b ws) g = true := by
  apply flagOf_setFlags_sticky
  intro w hw
  have := h w hw
  rcases hg with rfl | rfl | rfl <;> simp_all

theorem alu_named (op : AluOp) (x y : DWord) (c : Bool) : NoSticky (aluCompute op x y c).flags := by
  rw [aluCompute_flags]; simp [NoSticky, aluFlags]

theorem neg_named (x : DWord) : NoSticky (negCompute x).flags := by
  rw [negCompute_flags]; simp [NoSticky, aluFlags]

theorem abs_named (x : DWord) : NoSticky (absCompute x).flags := by
  rw [absCompute_flags]; simp [NoSticky, aluFlags]

theorem logic_named (x : DWord) : NoSticky (logicResult x).flags := by
  simp [NoSticky, logicResult, aluFlags]

theorem shift_named (k : ShiftKind) (x : DWord) (n : Int) : NoSticky (shiftCompute k x n).flags := by
  rw [shiftCompute_flags]; simp [NoSticky]

theorem mv_named (v : Bool) : NoSticky [(Flag.mv, v)] := by simp [NoSticky]

theorem aq_named (v : Bool) : NoSticky [(Flag.aq, v)] := by simp [NoSticky]

theorem av_named (v : Bool) : NoSticky [(Flag.av, v)] := by simp [NoSticky]

theorem combine_named (a b : FlagWrites) (h : NoSticky a) : NoSticky (combineFlags a b) := by
  intro w hw
  unfold combineFlags at hw
  induction a generalizing b with
  | nil => simp at hw
  | cons x xs ih =>
    cases b with
    | nil => simp at hw
    | cons y ys =>
      simp only [List.zipWith_cons_cons, List.mem_cons] at hw
      rcases hw with rfl | hw
      · exact h x (by simp)
      · exact ih ys (fun w hw => h w (by simp [hw])) hw

theorem none_named (b : FlagBundle) : ∃ ws, b = setFlags b ws ∧ NoSticky ws :=
  ⟨[], rfl, by simp [NoSticky]⟩

/-- A lane function that leaves data memory alone and writes flags by `setFlags`. -/
theorem laneEffect_flags {s : State} {i : Instr} {f : LaneId → LaneState → LaneState}
    (hd : ∀ n ln, (f n ln).dm = ln.dm)
    (hr : ∀ n ln, ∃ ws, (f n ln).astatR = setFlags ln.astatR ws ∧ NoSticky ws)
    (hi : ∀ n ln, ∃ ws, (f n ln).astatI = setFlags ln.astatI ws ∧ NoSticky ws)
    (hc : ∀ n ln, ∃ ws, (f n ln).astatC = setFlags ln.astatC ws ∧ NoSticky ws) :
    LaneEffect s i f := by
  constructor
  · intro n ln; rw [hd]; exact id
  · intro n ln; rw [hd]; exact id
  · intro _ _ n ln g hg
    obtain ⟨a, ha, hna⟩ := hr n ln
    obtain ⟨b, hb, hnb⟩ := hi n ln
    obtain ⟨c, hc, hnc⟩ := hc n ln
    rw [ha, hb, hc]
    exact ⟨sticky_kept _ hna _ _ hg, sticky_kept _ hnb _ _ hg, sticky_kept _ hnc _ _ hg⟩

/-- A lane function that leaves data memory and flags alone. -/
theorem laneEffect_plain {s : State} {i : Instr} {f : LaneId → LaneState → LaneState}
    (hd : ∀ n ln, (f n ln).dm = ln.dm ∧ (f n ln).astatR = ln.astatR ∧
      (f n ln).astatI = ln.astatI ∧ (f n ln).astatC = ln.astatC) : LaneEffect s i f :=
  laneEffect_flags (fun n l => (hd n l).1)
    (fun n l => by rw [(hd n l).2.1]; exact none_named _)
    (fun n l => by rw [(hd n l).2.2.1]; exact none_named _)
    (fun n l => by rw [(hd n l).2.2.2]; exact none_named _)

theorem addrCheck_fits {s : State} {cplx : Bool} {ea : Addr} {info : ErrorInfo}
    (h : addrCheck s cplx ea = some info) : info.fits .addr = true := by
  unfold addrCheck at h
  split at h
  · simp only [Option.some.injEq] at h; subst h; rfl
  · split at h <;> simp at h; subst h; rfl

theorem addrCheck_none {s : State} {cplx : Bool} {ea : Addr} (h : addrCheck s cplx ea = none) :
    AddressOk s cplx ea := by
  by_contra hn
  simp [addrCheck_bad s cplx ea hn] at h

/-- The second word of a complex access that passed the checks is implemented. -/
theorem pair_inRange {s : State} {ea : Addr} (h : AddressOk s true ea) :
    (ea + 1).toNat < s.params.dmWords := by
  have := h.2 rfl
  have := ea.isLt
  rw [BitVec.toNat_add]
  simp
  omega

section Shapes

variable {i : Instr} {s : State}

theorem shape_alu (op : AluOp) (rd rx : Reg) (y : YOperand) (c : Cond)
    (h : ∀ n, laneSelected i s n = condHolds c (s.lane n).astatR) :
    VerdictShape i s (aluVerdict op rd rx y c s) :=
  .lanes _ _ (by simpa using h) (laneEffect_flags (fun _ _ => rfl)
    (fun _ _ => ⟨_, rfl, alu_named _ _ _ _⟩) (fun _ _ => none_named _) (fun _ _ => none_named _))

theorem shape_unary (f : DWord → Computed) (rd rx : Reg) (c : Cond)
    (h : ∀ n, laneSelected i s n = condHolds c (s.lane n).astatR) (hf : ∀ x, NoSticky (f x).flags) :
    VerdictShape i s (unaryVerdict f rd rx c s) :=
  .lanes _ _ (by simpa using h) (laneEffect_flags (fun _ _ => rfl)
    (fun _ _ => ⟨_, rfl, hf _⟩) (fun _ _ => none_named _) (fun _ _ => none_named _))

theorem shape_shift (k : ShiftKind) (rd rx : Reg) (y : YOperand) (c : Cond)
    (h : ∀ n, laneSelected i s n = condHolds c (s.lane n).astatR) :
    VerdictShape i s (shiftVerdict k rd rx y c s) :=
  .lanes _ _ (by simpa using h) (laneEffect_flags (fun _ _ => rfl)
    (fun _ _ => ⟨_, rfl, shift_named _ _ _⟩) (fun _ _ => none_named _) (fun _ _ => none_named _))

theorem shape_divide (f : DWord → DWord → Bool → DWord × Bool) (rd rx ry : Reg) (c : Cond)
    (h : ∀ n, laneSelected i s n = condHolds c (s.lane n).astatR) :
    VerdictShape i s (divideVerdict f rd rx ry c s) :=
  .lanes _ _ (by simpa using h) (laneEffect_flags (fun _ _ => rfl)
    (fun _ _ => ⟨_, rfl, aq_named _⟩) (fun _ _ => none_named _) (fun _ _ => none_named _))

theorem shape_mac (k : MacKind) (o : MacOpt) (acc : AccIx) (rx ry : Reg) (c : Cond)
    (h : ∀ n, laneSelected i s n = condHolds c (s.lane n).astatR) :
    VerdictShape i s (macVerdict k o acc rx ry c s) :=
  .lanes _ _ (by simpa using h) (laneEffect_flags (fun _ _ => rfl)
    (fun _ _ => ⟨_, rfl, mv_named _⟩) (fun _ _ => none_named _) (fun _ _ => none_named _))

theorem shape_complex (op : AluOp) (rd rx ry : Reg) (c : Cond)
    (h : ∀ n, laneSelected i s n = condHolds c (s.lane n).astatC) :
    VerdictShape i s (complexVerdict op rd rx ry c s) :=
  .lanes _ _ (by simpa using h) (laneEffect_flags (fun _ _ => rfl)
    (fun _ _ => ⟨_, rfl, alu_named _ _ _ _⟩) (fun _ _ => ⟨_, rfl, alu_named _ _ _ _⟩)
    (fun _ _ => ⟨_, rfl, combine_named _ _ (alu_named _ _ _ _)⟩))

theorem shape_conj (rd rx : Reg) (c : Cond)
    (h : ∀ n, laneSelected i s n = condHolds c (s.lane n).astatC) :
    VerdictShape i s (conjVerdict rd rx c s) :=
  .lanes _ _ (by simpa using h) (laneEffect_flags (fun _ _ => rfl)
    (fun _ _ => ⟨_, rfl, logic_named _⟩) (fun _ _ => ⟨_, rfl, neg_named _⟩)
    (fun _ _ => ⟨_, rfl, combine_named _ _ (logic_named _)⟩))

theorem shape_convert (f : DWord → DWord → DWord × DWord × Bool) (rd rx : Reg) (c : Cond)
    (h : ∀ n, laneSelected i s n = condHolds c (s.lane n).astatC) :
    VerdictShape i s (convertVerdict f rd rx c s) :=
  .lanes _ _ (by simpa using h) (laneEffect_flags (fun _ _ => rfl)
    (fun _ _ => none_named _) (fun _ _ => none_named _) (fun _ _ => ⟨_, rfl, av_named _⟩))

theorem shape_macComplex (k : MacKind) (conj : Bool) (o : MacOpt) (acc : AccIx) (rx ry : Reg)
    (c : Cond) (h : ∀ n, laneSelected i s n = condHolds c (s.lane n).astatC) :
    VerdictShape i s (macComplexVerdict k conj o acc rx ry c s) :=
  .lanes _ _ (by simpa using h) (laneEffect_flags (fun _ _ => rfl)
    (fun _ _ => ⟨_, rfl, mv_named _⟩) (fun _ _ => ⟨_, rfl, mv_named _⟩)
    (fun _ _ => ⟨_, rfl, combine_named _ _ (mv_named _)⟩))

theorem shape_move (k : Mask) (f : LaneId → LaneState → LaneState)
    (h : ∀ n, laneSelected i s n = k.get n)
    (hd : ∀ n ln, (f n ln).dm = ln.dm ∧ (f n ln).astatR = ln.astatR ∧
      (f n ln).astatI = ln.astatI ∧ (f n ln).astatC = ln.astatC) :
    VerdictShape i s (moveVerdict k s f) :=
  .lanes _ _ h (laneEffect_plain hd)

theorem shape_mem (cplx : Bool) (mode : Mode) (k : Mask)
    (f : Addr → LaneId → LaneState → LaneState) (h : ∀ n, laneSelected i s n = k.get n)
    (hf : AddressOk s cplx (effAddr s mode) → LaneEffect s i (f (effAddr s mode))) :
    VerdictShape i s (memVerdict cplx mode k s f) := by
  unfold memVerdict
  split
  · exact .raised _ _ (addrCheck_fits (by assumption))
  · exact .mem k _ _ none h (hf (addrCheck_none (by assumption)))

theorem shape_load (mode : Mode) (k : Mask) (r : Reg) (h : ∀ n, laneSelected i s n = k.get n) :
    VerdictShape i s (loadVerdict mode k r s) :=
  shape_mem _ _ _ _ h fun _ => laneEffect_plain fun _ _ => ⟨rfl, rfl, rfl, rfl⟩

theorem shape_loadPair (mode : Mode) (k : Mask) (r : Reg) (h : ∀ n, laneSelected i s n = k.get n) :
    VerdictShape i s (loadPairVerdict mode k r s) :=
  shape_mem _ _ _ _ h fun _ => laneEffect_plain fun _ _ => ⟨rfl, rfl, rfl, rfl⟩

theorem shape_store (mode : Mode) (k : Mask) (r : Reg) (h : ∀ n, laneSelected i s n = k.get n) :
    VerdictShape i s (storeVerdict mode k r s) :=
  shape_mem _ _ _ _ h fun ha =>
    ⟨fun _ _ hw => memWf_dmWrite _ _ _ hw, fun _ _ hb => memBelow_memPut _ _ _ _ ha.1 hb,
      fun _ _ _ _ _ _ => ⟨id, id, id⟩⟩

theorem shape_storePair (mode : Mode) (k : Mask) (r : Reg)
    (h : ∀ n, laneSelected i s n = k.get n) : VerdictShape i s (storePairVerdict mode k r s) :=
  shape_mem _ _ _ _ h fun ha =>
    ⟨fun _ _ hw => memWf_dmWrite _ _ _ (memWf_dmWrite _ _ _ hw),
      fun _ _ hb => memBelow_memPut _ _ _ _ (pair_inRange ha) (memBelow_memPut _ _ _ _ ha.1 hb),
      fun _ _ _ _ _ _ => ⟨id, id, id⟩⟩

theorem shape_aluLd (op : AluOp) (rd rx ry : Reg) (lrd : Reg8) (li lm : Ix4) (c : Cond)
    (h : ∀ n, laneSelected i s n = condHolds c (s.lane n).astatR) :
    VerdictShape i s (aluLdVerdict op rd rx ry lrd li lm c s) := by
  unfold aluLdVerdict
  split
  · exact .raised _ _ rfl
  · exact shape_mem _ _ _ _ (by simpa using h) fun _ => laneEffect_flags (fun _ _ => rfl)
      (fun _ _ => ⟨_, rfl, alu_named _ _ _ _⟩) (fun _ _ => none_named _) (fun _ _ => none_named _)

theorem shape_macLd (k : MacKind) (o : MacOpt) (acc : AccIx) (rx ry : Reg) (lrd : Reg8)
    (li lm : Ix4) (c : Cond) (h : ∀ n, laneSelected i s n = condHolds c (s.lane n).astatR) :
    VerdictShape i s (macLdVerdict k o acc rx ry lrd li lm c s) :=
  shape_mem _ _ _ _ (by simpa using h) fun _ => laneEffect_flags (fun _ _ => rfl)
    (fun _ _ => ⟨_, rfl, mv_named _⟩) (fun _ _ => none_named _) (fun _ _ => none_named _)

theorem shape_macLdLd (k : MacKind) (o : MacOpt1) (acc : Acc4) (rx ry r1 : Reg8) (i1 m1 : Ix4)
    (r2 : Reg8) (i2 m2 : Ix4) (c : Cond)
    (h : ∀ n, laneSelected i s n = condHolds c (s.lane n).astatR) :
    VerdictShape i s (macLdLdVerdict k o acc rx ry r1 i1 m1 r2 i2 m2 c s) := by
  unfold macLdLdVerdict
  split
  · exact .raised _ _ rfl
  · dsimp only
    split
    · exact .raised _ _ (addrCheck_fits (by assumption))
    · split
      · exact .raised _ _ (addrCheck_fits (by assumption))
      · exact .mem _ _ _ _ (by simpa using h) (laneEffect_flags (fun _ _ => rfl)
          (fun _ _ => ⟨_, rfl, mv_named _⟩) (fun _ _ => none_named _) (fun _ _ => none_named _))

theorem shape_shiftSt (k : ShiftKind) (rd rx ry : Reg) (srs : Reg8) (si sm : Ix4) (c : Cond)
    (h : ∀ n, laneSelected i s n = condHolds c (s.lane n).astatR) :
    VerdictShape i s (shiftStVerdict k rd rx ry srs si sm c s) :=
  shape_mem _ _ _ _ (by simpa using h) fun ha =>
    ⟨fun _ _ hw => memWf_dmWrite _ _ _ hw, fun _ _ hb => memBelow_memPut _ _ _ _ ha.1 hb,
      fun _ _ _ _ _ hg => ⟨sticky_kept _ (shift_named _ _ _) _ _ hg, id, id⟩⟩

theorem laneEffect_bundle (ctl : Ctl) (v : LaneId → LaneState → FlagBundle)
    (h : (∃ rx c, i = .cpCR ctl rx c) ∨ ∃ imm, i = .ldCI ctl imm) :
    LaneEffect s i (fun n ln => setBundle ctl (v n ln) ln) := by
  constructor
  · intro n ln; cases ctl <;> exact id
  · intro n ln; cases ctl <;> exact id
  · intro h1 h2 n ln g hg
    have : ctl ≠ .astatR ∧ ctl ≠ .astatI ∧ ctl ≠ .astatC := by
      rcases h with ⟨rx, c, rfl⟩ | ⟨imm, rfl⟩
      · exact h1 _ _ _ rfl
      · exact h2 _ _ rfl
    cases ctl <;> simp_all [setBundle]

theorem shape_writeCtl (ctl : Ctl) (rx : Reg) (c : Cond) :
    VerdictShape (.cpCR ctl rx c) s (writeCtlVerdict ctl rx c s) := by
  unfold writeCtlVerdict
  dsimp only
  split
  · exact .raised _ _ (by simpa [ErrorInfo.fits])
  · split
    · split <;> [exact .cntr _; exact .same _]
    · split <;> [exact .mstat _; exact .same _]
    · exact .lanes _ _ (by simp [laneSelected, condField, complexClass])
        (laneEffect_bundle ctl _ (.inl ⟨_, _, rfl⟩))

theorem shape_loadCtl (ctl : Ctl) (imm : BitVec 16) :
    VerdictShape (.ldCI ctl imm) s (loadCtlVerdict ctl imm s) := by
  unfold loadCtlVerdict
  split
  · exact .raised _ _ (by simpa [ErrorInfo.fits])
  · split
    · exact .cntr _
    · exact .mstat _
    · exact .lanes _ _ (by simp [laneSelected, condField])
        (laneEffect_bundle ctl _ (.inr ⟨_, rfl⟩))

theorem shape_checked (b : Bool) (v : Verdict) (h : VerdictShape i s v) :
    VerdictShape i s (checkedTransfer s b v) := by
  unfold checkedTransfer
  split
  · exact .raised _ _ rfl
  · exact h

theorem shape_return : VerdictShape i s (returnVerdict s) := by
  unfold returnVerdict
  split
  · exact .underflow
  · exact .popPc _ _ (by assumption)

end Shapes

/-- Every verdict of every instruction has one of the shapes. -/
theorem verdict_cases (i : Instr) (s : State) : VerdictShape i s (verdictOf i s) := by
  cases i
  case nop => exact .same _
  case reset => exact .reset rfl
  case pushSts => exact .pushStatus rfl
  case popSts => exact .popStatus rfl
  case jump =>
    simp only [verdictOf, jumpVerdict]
    exact shape_checked _ _ (by split <;> exact .same _)
  case call =>
    simp only [verdictOf, callVerdict]
    exact shape_checked _ _ (by split <;> [exact .pushPc _ _; exact .same _])
  case rts =>
    simp only [verdictOf, rtsVerdict]
    exact shape_checked _ _ (by split <;> [exact shape_return; exact .same _])
  case doUntil => exact shape_checked _ _ (.pushLoop _ ⟨_, _, rfl⟩)
  case cpCR => exact shape_writeCtl _ _ _
  case ldCI => exact shape_loadCtl _ _
  case ldGI => exact .index _ _ _
  case cpGR => simp only [verdictOf]; split <;> [exact .index _ _ _; exact .same _]
  case addRRR => exact shape_alu _ _ _ _ _ (fun _ => rfl)
  case addcRRR => exact shape_alu _ _ _ _ _ (fun _ => rfl)
  case subRRR => exact shape_alu _ _ _ _ _ (fun _ => rfl)
  case subbRRR => exact shape_alu _ _ _ _ _ (fun _ => rfl)
  case andRRR => exact shape_alu _ _ _ _ _ (fun _ => rfl)
  case orRRR => exact shape_alu _ _ _ _ _ (fun _ => rfl)
  case xorRRR => exact shape_alu _ _ _ _ _ (fun _ => rfl)
  case notRR => exact shape_unary _ _ _ _ (fun _ => rfl) (fun _ => logic_named _)
  case absRR => exact shape_unary _ _ _ _ (fun _ => rfl) (abs_named)
  case negRR => exact shape_unary _ _ _ _ (fun _ => rfl) (neg_named)
  case cpRR =>
    exact shape_move _ _ (fun n => by simp [laneSelected, condField, complexClass])
      (fun _ _ => ⟨rfl, rfl, rfl, rfl⟩)
  case ashiftRRR => exact shape_shift _ _ _ _ _ (fun _ => rfl)
  case lshiftRRR => exact shape_shift _ _ _ _ _ (fun _ => rfl)
  case divsRRR => exact shape_divide _ _ _ _ _ (fun _ => rfl)
  case divqRRR => exact shape_divide _ _ _ _ _ (fun _ => rfl)
  case addRRI => exact shape_alu _ _ _ _ _ (fun _ => rfl)
  case addcRRI => exact shape_alu _ _ _ _ _ (fun _ => rfl)
  case subRRI => exact shape_alu _ _ _ _ _ (fun _ => rfl)
  case subbRRI => exact shape_alu _ _ _ _ _ (fun _ => rfl)
  case andRRI => exact shape_alu _ _ _ _ _ (fun _ => rfl)
  case orRRI => exact shape_alu _ _ _ _ _ (fun _ => rfl)
  case xorRRI => exact shape_alu _ _ _ _ _ (fun _ => rfl)
  case ashiftRRI => exact shape_shift _ _ _ _ _ (fun _ => rfl)
  case lshiftRRI => exact shape_shift _ _ _ _ _ (fun _ => rfl)
  case addC => exact shape_complex _ _ _ _ _ (fun _ => rfl)
  case subC => exact shape_complex _ _ _ _ _ (fun _ => rfl)
  case conjC => exact shape_conj _ _ _ (fun _ => rfl)
  case polarC => exact shape_convert _ _ _ _ (fun _ => rfl)
  case rectC => exact shape_convert _ _ _ _ (fun _ => rfl)
  case cpC =>
    exact shape_move _ _ (fun n => by simp [laneSelected, condField, complexClass])
      (fun _ _ => ⟨rfl, rfl, rfl, rfl⟩)
  case mpy => exact shape_mac _ _ _ _ _ _ (fun _ => rfl)
  case mac => exact shape_mac _ _ _ _ _ _ (fun _ => rfl)
  case mas => exact shape_mac _ _ _ _ _ _ (fun _ => rfl)
  case mpyC => exact shape_macComplex _ _ _ _ _ _ _ (fun _ => rfl)
  case macC => exact shape_macComplex _ _ _ _ _ _ _ (fun _ => rfl)
  case masC => exact shape_macComplex _ _ _ _ _ _ _ (fun _ => rfl)
  case cpVR =>
    exact shape_move _ _ (fun n => by simp [laneSelected, condField, complexClass])
      (fun _ _ => ⟨rfl, rfl, rfl, rfl⟩)
  case cpRV =>
    exact shape_move _ _ (fun n => by simp [laneSelected, condField, complexClass])
      (fun _ _ => ⟨rfl, rfl, rfl, rfl⟩)
  case cpAA =>
    exact shape_move _ _ (fun n => by simp [laneSelected, condField, complexClass])
      (fun _ _ => ⟨rfl, rfl, rfl, rfl⟩)
  case cpRG =>
    exact shape_move _ _ (fun n => by simp [laneSelected, condField, complexClass])
      (fun _ _ => ⟨rfl, rfl, rfl, rfl⟩)
  case cpRC =>
    exact shape_move _ _ (fun n => by simp [laneSelected, condField, complexClass])
      (fun _ _ => ⟨rfl, rfl, rfl, rfl⟩)
  case ldRI =>
    exact shape_move _ _ (fun n => by simp [laneSelected, condField, complexClass])
      (fun _ _ => ⟨rfl, rfl, rfl, rfl⟩)
  case ldAbs => exact shape_load _ _ _ (fun n => by simp [laneSelected, condField])
  case stAbs => exact shape_store _ _ _ (fun n => by simp [laneSelected, condField])
  case ldCAbs =>
    exact shape_loadPair _ _ _ (fun n => by simp [laneSelected, condField])
  case stCAbs =>
    exact shape_storePair _ _ _ (fun n => by simp [laneSelected, condField])
  case ldPostM => exact shape_load _ _ _ (fun n => by simp [laneSelected, condField, complexClass])
  case stPostM => exact shape_store _ _ _ (fun n => by simp [laneSelected, condField, complexClass])
  case ldCPostM =>
    exact shape_loadPair _ _ _ (fun n => by simp [laneSelected, condField, complexClass])
  case stCPostM =>
    exact shape_storePair _ _ _ (fun n => by simp [laneSelected, condField, complexClass])
  case ldPreM => exact shape_load _ _ _ (fun n => by simp [laneSelected, condField, complexClass])
  case stPreM => exact shape_store _ _ _ (fun n => by simp [laneSelected, condField, complexClass])
  case ldCPreM =>
    exact shape_loadPair _ _ _ (fun n => by simp [laneSelected, condField, complexClass])
  case stCPreM =>
    exact shape_storePair _ _ _ (fun n => by simp [laneSelected, condField, complexClass])
  case ldPostI => exact shape_load _ _ _ (fun n => by simp [laneSelected, condField, complexClass])
  case stPostI => exact shape_store _ _ _ (fun n => by simp [laneSelected, condField, complexClass])
  case ldCPostI =>
    exact shape_loadPair _ _ _ (fun n => by simp [laneSelected, condField, complexClass])
  case stCPostI =>
    exact shape_storePair _ _ _ (fun n => by simp [laneSelected, condField, complexClass])
  case ldPreI => exact shape_load _ _ _ (fun n => by simp [laneSelected, condField, complexClass])
  case stPreI => exact shape_store _ _ _ (fun n => by simp [laneSelected, condField, complexClass])
  case ldCPreI =>
    exact shape_loadPair _ _ _ (fun n => by simp [laneSelected, condField, complexClass])
  case stCPreI =>
    exact shape_storePair _ _ _ (fun n => by simp [laneSelected, condField, complexClass])
  case addLd => exact shape_aluLd _ _ _ _ _ _ _ _ (fun _ => rfl)
  case addcLd => exact shape_aluLd _ _ _ _ _ _ _ _ (fun _ => rfl)
  case subLd => exact shape_aluLd _ _ _ _ _ _ _ _ (fun _ => rfl)
  case subbLd => exact shape_aluLd _ _ _ _ _ _ _ _ (fun _ => rfl)
  case andLd => exact shape_aluLd _ _ _ _ _ _ _ _ (fun _ => rfl)
  case orLd => exact shape_aluLd _ _ _ _ _ _ _ _ (fun _ => rfl)
  case xorLd => exact shape_aluLd _ _ _ _ _ _ _ _ (fun _ => rfl)
  case mpyLd => exact shape_macLd _ _ _ _ _ _ _ _ _ (fun _ => rfl)
  case macLd => exact shape_macLd _ _ _ _ _ _ _ _ _ (fun _ => rfl)
  case masLd => exact shape_macLd _ _ _ _ _ _ _ _ _ (fun _ => rfl)
  case mpyLdLd => exact shape_macLdLd _ _ _ _ _ _ _ _ _ _ _ _ (fun _ => rfl)
  case macLdLd => exact shape_macLdLd _ _ _ _ _ _ _ _ _ _ _ _ (fun _ => rfl)
  case masLdLd => exact shape_macLdLd _ _ _ _ _ _ _ _ _ _ _ _ (fun _ => rfl)
  case ashiftSt => exact shape_shiftSt _ _ _ _ _ _ _ _ (fun _ => rfl)
  case lshiftSt => exact shape_shiftSt _ _ _ _ _ _ _ _ (fun _ => rfl)

/-- What every written state has in common with the state before the word. -/
structure Untouched (s t : State) : Prop where
  params : t.params = s.params
  im : t.im = s.im
  halted : t.halted = s.halted
  pc : t.pc = s.pc
  dsPending : t.dsPending = s.dsPending
  dsTarget : t.dsTarget = s.dsTarget
  cycles : t.cycles = s.cycles
  errCnt : t.errCnt = s.errCnt
  errLog : t.errLog = s.errLog

theorem verdict_untouched {i : Instr} {s t : State} {g : Option Addr} {v : Verdict}
    (h : VerdictShape i s v) (hv : v = .wrote t g) : Untouched s t := by
  cases h <;> cases hv <;> try (constructor <;> rfl)
  · constructor <;> simp
  · constructor <;> simp
  · unfold pushPc; split <;> constructor <;> rfl
  · unfold pushLoop; split <;> constructor <;> rfl
  · unfold pushStatus; split <;> constructor <;> rfl
  · unfold popStatus; split <;> constructor <;> rfl

/-! ## Hazard classes (70_reset_and_hazards.md R461, R462) -/

theorem wordClass_format (i : Instr) :
    (wordClass i).load = loadFormat (formatOf i).id ∧
      (wordClass i).store = storeFormat (formatOf i).id ∧
      (wordClass i).mult = multFormat (formatOf i).id := by
  cases i <;> simp [wordClass, loadFormat, storeFormat, multFormat, formatOf, plainWord, loadWord,
    storeWord, multWord, multLoadWord]

theorem peekAddr_eq (s : State) : peekAddr s = followingAddr s := by
  unfold peekAddr followingAddr
  cases s.lpStk with
  | nil => rfl
  | cons e rest =>
    have : (e.count - 1 ≠ 0) ↔ ¬e.count = 1 := by rw [Ne, sub_eq_zero]
    by_cases h : s.pc = e.last <;> by_cases hf : e.forever = true <;>
      by_cases hc : e.count = 1 <;> simp_all

theorem nextIsMultiply_iff (s : State) : nextIsMultiply s = true ↔ MultiplyFollows s := by
  unfold nextIsMultiply MultiplyFollows
  rw [peekAddr_eq]
  cases hw : imWord s (followingAddr s) with
  | none => simp
  | some w =>
    cases hd : decode w with
    | error e => simp [hd]
    | ok j => simp [hd, (wordClass_format j).2.2]

end Sys2Proof.Machine
end

