-- ==== Sys2Proof/Laws/Completion.lean ====
section
/-! SUPPORT. How an instruction completes, said once for each kind of word: a masked write of the lanes, a
memory word, an error; and how a lane's frame is shown. -/

namespace Sys2Proof.Machine

/-- A real-class word that only writes lanes: it completes, and its active lanes are those written. -/
theorem exec_lanes_real {i : Instr} {s : State} {c : Cond} {f : LaneId → LaneState → LaneState}
    {P : State → LaneId → Prop}
    (hv : verdictOf i s = .wrote (mapMask s (realMask s c) f) none)
    (hP : ∀ t n, t.lane n = f n (s.lane n) → P t n) :
    ∃ t, exec i s = .next t ∧ OnlyLanes s t ∧ ∀ n,
      (condHolds c (s.lane n).astatR = false → t.lane n = s.lane n) ∧
      (condHolds c (s.lane n).astatR = true → P t n) := by
  refine ⟨_, exec_eq _ _, ?_⟩
  rw [hv]
  obtain ⟨h1, h2⟩ := retire_onlyLanes (wordClass i) s (realMask s c) f
  refine ⟨h1, fun n => ⟨fun h => ?_, fun h => hP _ n ?_⟩⟩ <;> rw [h2, realMask_get, h] <;> rfl

/-- A complex-class word that only writes lanes. -/
theorem exec_lanes_complex {i : Instr} {s : State} {c : Cond}
    {f : LaneId → LaneState → LaneState} {P : State → LaneId → Prop}
    (hv : verdictOf i s = .wrote (mapMask s (complexMask s c) f) none)
    (hP : ∀ t n, t.lane n = f n (s.lane n) → P t n) :
    ∃ t, exec i s = .next t ∧ OnlyLanes s t ∧ ∀ n,
      (condHolds c (s.lane n).astatC = false → t.lane n = s.lane n) ∧
      (condHolds c (s.lane n).astatC = true → P t n) := by
  refine ⟨_, exec_eq _ _, ?_⟩
  rw [hv]
  obtain ⟨h1, h2⟩ := retire_onlyLanes (wordClass i) s (complexMask s c) f
  refine ⟨h1, fun n => ⟨fun h => ?_, fun h => hP _ n ?_⟩⟩ <;> rw [h2, complexMask_get, h] <;> rfl

/-- The frame of a lane whose new value is known. -/
theorem laneFrame_of {rs : List Reg} {ks : List AccIx} {fr fi fc : List Flag} {ws : List Addr}
    {s t : State} {n : LaneId} {ln : LaneState} (h : t.lane n = ln)
    (h1 : ∀ r, r ∉ rs → getR ln r = getR (s.lane n) r)
    (h2 : ∀ k, k ∉ ks → getAcc ln k = getAcc (s.lane n) k)
    (h3 : ∀ f, f ∉ fr → flagOf ln.astatR f = flagOf (s.lane n).astatR f)
    (h4 : ∀ f, f ∉ fi → flagOf ln.astatI f = flagOf (s.lane n).astatI f)
    (h5 : ∀ f, f ∉ fc → flagOf ln.astatC f = flagOf (s.lane n).astatC f)
    (h6 : ∀ a, a ∉ ws → dmRead n ln.dm a = dmRead n (s.lane n).dm a) :
    LaneFrame rs ks fr fi fc ws s t n := by
  constructor <;> (try unfold dataWord) <;> rw [h] <;> assumption

theorem getR_setR_frame (ln : LaneState) (rd r : Reg) (v : DWord) (h : r ∉ [rd]) :
    getR (setR ln rd v) r = getR ln r := by
  rw [getR_setR, if_neg (by simp at h; exact fun e => h e.symm)]

theorem getR_setPair_frame (ln : LaneState) (rd re r : Reg) (v w : DWord) (h : r ∉ [rd, re]) :
    getR (setR (setR ln rd v) re w) r = getR ln r := by
  simp at h
  rw [getR_setR, if_neg (fun e => h.2 e.symm), getR_setR, if_neg (fun e => h.1 e.symm)]

theorem getAcc_setAcc_frame (ln : LaneState) (k j : AccIx) (v : AccWord) (h : j ∉ [k]) :
    getAcc (setAcc ln k v) j = getAcc ln j := by
  rw [getAcc_setAcc, if_neg (by simp at h; exact fun e => h e.symm)]

theorem getAcc_setPair_frame (ln : LaneState) (k l j : AccIx) (v w : AccWord) (h : j ∉ [k, l]) :
    getAcc (setAcc (setAcc ln k v) l w) j = getAcc ln j := by
  simp at h
  rw [getAcc_setAcc, if_neg (fun e => h.2 e.symm), getAcc_setAcc, if_neg (fun e => h.1 e.symm)]

/-- With a selected lane that no earlier one precedes, the mask is not empty and its first lane is
that one (00_scope.md R13). -/
theorem firstLane_of {s : State} {c : Cond} {n : LaneId}
    (h : condHolds c (s.lane n).astatR = true)
    (hm : ∀ m, m < n → condHolds c (s.lane m).astatR = false) :
    anyLane (realMask s c) = true ∧ firstLane (realMask s c) = n := by
  have ha : anyLane (realMask s c) = true := (anyLane_realMask s c).mpr ⟨n, h⟩
  have hs := firstLane_spec (realMask s c) ha
  refine ⟨ha, ?_⟩
  rcases lt_trichotomy (firstLane (realMask s c)) n with h1 | h1 | h1
  · have := hm _ h1
    rw [realMask_get] at hs
    rw [hs.1] at this
    exact absurd this (by decide)
  · exact h1
  · have := hs.2 _ h1
    rw [realMask_get, h] at this
    exact absurd this (by decide)

/-- A mask with no selected lane is empty. -/
theorem anyLane_none {s : State} {c : Cond} (h : ∀ n, condHolds c (s.lane n).astatR = false) :
    anyLane (realMask s c) = false := by
  by_contra hc
  simp at hc
  obtain ⟨n, hn⟩ := (anyLane_realMask s c).mp hc
  rw [h n] at hn
  exact absurd hn (by decide)

/-- A memory word at an address that passes the checks: it completes, its selected lanes are those
written, and the post-modify update is made iff some lane is selected. -/
theorem exec_memory {i : Instr} {s : State} {cplx : Bool} {mode : Mode}
    {f : Addr → LaneId → LaneState → LaneState} {k : Mask} {P : State → LaneId → Prop}
    (hv : verdictOf i s = memVerdict cplx mode k s f) (hk : ∀ n, k.get n = laneSelected i s n)
    (ha : AddressOk s cplx (effAddr s mode))
    (hP : ∀ t n, t.lane n = f (effAddr s mode) n (s.lane n) → P t n) :
    ∃ t, exec i s = .next t ∧ MemoryStep i (modeWrites s mode) s t ∧ ∀ n,
      (laneSelected i s n = false → t.lane n = s.lane n) ∧
      (laneSelected i s n = true → P t n) := by
  refine ⟨_, exec_eq _ _, ?_⟩
  rw [hv, memVerdict, addrCheck_ok _ _ _ ha]
  dsimp only
  have hany : anyLane k = true ↔ ∃ n, laneSelected i s n = true := by rw [anyLane_iff]; simp [hk]
  generalize hu : applyPost (mapMask s k (f (effAddr s mode))) k (postUpdate s mode) = u
  have hl : ∀ n, (retire (wordClass i) s (.wrote u none)).lane n =
      if laneSelected i s n then f (effAddr s mode) n (s.lane n) else s.lane n := by
    intro n; rw [retire_wrote_lane, ← hu, applyPost_lane, lane_mapMask, hk]
  have a := retire_wrote_address (wordClass i) s u none
  refine ⟨⟨?_, ?_, ?_, ?_, ?_, ?_, ?_⟩,
    fun n => ⟨fun h => by rw [hl, h]; rfl, fun h => hP _ _ (by rw [hl, h]; rfl)⟩⟩
  · intro hn
    have hn := hany.mpr hn
    constructor
    · intro j
      rw [readG_congr a.i a.m a.l a.b, ← postUpdate_eq, ← hu]
      cases hp : postUpdate s mode with
      | none => simp [applyPost]; rfl
      | some w =>
        obtain ⟨g, v⟩ := w
        rw [applyPost_some _ _ _ _ hn, readG_writeG]
        by_cases hg : g = j
        · simp [hg]
        · have : ¬(j == g) = true := by simpa using fun e => hg e.symm
          simp [hg, List.lookup, this]; rfl
    all_goals
      subst hu
      cases postUpdate s mode <;> simp [retire, applyPost, hn, writeG]
  · intro hn
    have hno : anyLane k = false := by
      by_contra hc
      simp at hc
      obtain ⟨n, h⟩ := hany.mp hc
      rw [hn n] at h
      exact absurd h (by decide)
    rw [applyPost_idle _ _ _ hno] at hu
    subst hu
    constructor <;> simp [retire]
  · subst hu; constructor <;> simp [retire]
  · subst hu; constructor <;> simp [retire]
  · subst hu; constructor <;> simp [retire]
  · subst hu; constructor <;> simp [retire]
  · have := retire_wrote_flow (wordClass i) s u (by simp [← hu]) (by simp [← hu]) (by simp [← hu])
    rwa [show u.lpStk = s.lpStk by simp [← hu]] at this

/-- A memory word whose address fails a check: `E_ADDR`. -/
theorem exec_memory_error {i : Instr} {s : State} {cplx : Bool} {mode : Mode}
    {f : Addr → LaneId → LaneState → LaneState} {k : Mask}
    (hv : verdictOf i s = memVerdict cplx mode k s f)
    (ha : ¬AddressOk s cplx (effAddr s mode)) :
    ∃ t, exec i s = .next t ∧ ErrorStep .addr s t := by
  refine ⟨_, exec_eq _ _, ?_⟩
  rw [hv, memVerdict, addrCheck_bad _ _ _ ha]
  exact retire_raised _ _ _ _

end Sys2Proof.Machine
end

