-- ==== Sys2Proof/Laws/Encoding.lean ====
section
/-! SUPPORT. The bit buffer and the fields of a word (spec/30_encoding.md R103, R107): a field put into the
buffer is the field read from the word, and a word is the buffer of its own fields. -/

namespace Sys2Proof

/-- The field of width `n` that the list puts at bit `lo`, if a field of the list stands exactly there. -/
def pickField : List Field → Nat → Nat → Option Nat
  | [], _, _ => none
  | (w, v) :: rest, lo, n =>
    if totalWidth rest = lo then (if w = n then some (v % 2 ^ w) else none) else pickField rest lo n

/-- The list holds, from the first bit down, the fields of the word. -/
def Tiles (w : IWord) : List Field → Prop
  | [] => True
  | (n, v) :: rest => v % 2 ^ n = fld w (totalWidth rest) n ∧ Tiles w rest

@[simp] theorem totalWidth_nil : totalWidth [] = 0 := rfl

@[simp] theorem totalWidth_cons (n v : Nat) (fs : List Field) :
    totalWidth ((n, v) :: fs) = n + totalWidth fs := by simp [totalWidth]

/-- The buffer after more fields: what was in it, shifted up, and the buffer of the new fields. -/
theorem foldl_pack (fs : List Field) (a : Nat) :
    fs.foldl (fun acc f => acc * 2 ^ f.1 + f.2 % 2 ^ f.1) a =
      a * 2 ^ totalWidth fs + packFields fs := by
  induction fs generalizing a with
  | nil => simp [packFields]
  | cons f fs ih =>
    obtain ⟨n, v⟩ := f
    simp only [packFields, List.foldl_cons, totalWidth_cons]
    rw [ih, ih (0 * 2 ^ n + v % 2 ^ n)]
    ring

/-- The first field stands above the others. -/
theorem packFields_cons (n v : Nat) (fs : List Field) :
    packFields ((n, v) :: fs) = v % 2 ^ n * 2 ^ totalWidth fs + packFields fs := by
  have := foldl_pack fs (0 * 2 ^ n + v % 2 ^ n)
  simpa [packFields] using this

/-- The buffer holds no more bits than the fields have. -/
theorem packFields_lt (fs : List Field) : packFields fs < 2 ^ totalWidth fs := by
  induction fs with
  | nil => simp [packFields]
  | cons f fs ih =>
    obtain ⟨n, v⟩ := f
    rw [packFields_cons, totalWidth_cons, pow_add]
    have : v % 2 ^ n + 1 ≤ 2 ^ n := Nat.mod_lt _ (Nat.two_pow_pos n)
    nlinarith [Nat.mul_le_mul_right (2 ^ totalWidth fs) this]

/-- A field of the list stands inside its width. -/
theorem pickField_range (fs : List Field) (lo n v : Nat) (h : pickField fs lo n = some v) :
    lo + n ≤ totalWidth fs := by
  induction fs with
  | nil => simp [pickField] at h
  | cons f fs ih =>
    obtain ⟨k, x⟩ := f
    unfold pickField at h
    rw [totalWidth_cons]
    split at h
    · split at h <;> [omega; simp at h]
    · have := ih h; omega

/-- A field of the list is the field of the buffer at its place. -/
theorem pack_pickField (fs : List Field) (lo n v : Nat) (h : pickField fs lo n = some v) :
    packFields fs / 2 ^ lo % 2 ^ n = v := by
  induction fs with
  | nil => simp [pickField] at h
  | cons f fs ih =>
    obtain ⟨k, x⟩ := f
    rw [packFields_cons]
    unfold pickField at h
    split at h
    · rename_i h0
      split at h
      · rename_i h1
        have h2 : x % 2 ^ k = v := by simpa using h
        rw [← h0, Nat.mul_comm, Nat.mul_add_div (Nat.two_pow_pos _),
          Nat.div_eq_of_lt (packFields_lt fs), ← h1, h2, ← h2]
        simp
      · simp at h
    · obtain ⟨d, hd⟩ := Nat.exists_eq_add_of_le (pickField_range fs lo n v h)
      rw [← ih h, hd, pow_add, pow_add]
      have : x % 2 ^ k * (2 ^ lo * 2 ^ n * 2 ^ d) + packFields fs =
          2 ^ lo * (2 ^ n * (x % 2 ^ k * 2 ^ d)) + packFields fs := by ring
      rw [this, Nat.mul_add_div (Nat.two_pow_pos _), Nat.mul_add_mod]

/-- A field of the encoded word, read back (30_encoding.md R107). -/
theorem fld_encode (i : Instr) (hw : totalWidth (fieldsOf i) = 32) (lo n : Nat)
    (h : (pickField (fieldsOf i) lo n).isSome = true) :
    fld (encode i) lo n = (pickField (fieldsOf i) lo n).getD 0 := by
  obtain ⟨v, hv⟩ := Option.isSome_iff_exists.mp h
  have hlt := packFields_lt (fieldsOf i)
  rw [hw] at hlt
  rw [hv, fld, encode, BitVec.toNat_ofNat, Nat.mod_eq_of_lt hlt, pack_pickField _ _ _ _ hv]
  rfl

/-- The buffer of the fields of a word is the word's low bits. -/
theorem pack_tiles (w : IWord) (fs : List Field) (h : Tiles w fs) :
    packFields fs = w.toNat % 2 ^ totalWidth fs := by
  induction fs with
  | nil => simp [packFields, Nat.mod_one]
  | cons f fs ih =>
    obtain ⟨n, v⟩ := f
    obtain ⟨h1, h2⟩ := h
    rw [packFields_cons, h1, ih h2, totalWidth_cons, fld, Nat.add_comm n, pow_add, Nat.mod_mul]
    ring

/-- A word whose fields are those of an instruction is the instruction's word. -/
theorem encode_of_tiles (w : IWord) (i : Instr) (hw : totalWidth (fieldsOf i) = 32)
    (h : Tiles w (fieldsOf i)) : encode i = w := by
  have := w.isLt
  apply BitVec.eq_of_toNat_eq
  rw [encode, pack_tiles w _ h, hw, BitVec.toNat_ofNat]
  omega

/-- The buffer of the first fields is the upper part of the buffer. -/
theorem pack_append (pre post : List Field) :
    packFields (pre ++ post) = packFields pre * 2 ^ totalWidth post + packFields post := by
  rw [packFields, List.foldl_append, foldl_pack]
  rfl

/-- A number under a mask of upper ones keeps its upper bits. -/
theorem and_upper (x m : Nat) (hm : m ≤ 32) (hx : x < 2 ^ 32) :
    x &&& (2 ^ 32 - 2 ^ m) = x / 2 ^ m * 2 ^ m := by
  obtain ⟨d, hd⟩ := Nat.exists_eq_add_of_le hm
  have hmask : 2 ^ 32 - 2 ^ m = (2 ^ d - 1) * 2 ^ m := by
    rw [hd, pow_add, Nat.sub_mul, Nat.mul_comm (2 ^ m)]; simp
  rw [hmask]
  apply Nat.eq_of_testBit_eq
  intro k
  rw [Nat.testBit_and, Nat.testBit_mul_two_pow, Nat.testBit_mul_two_pow, Nat.testBit_div_two_pow,
    Nat.testBit_two_pow_sub_one]
  by_cases hk : m ≤ k
  · have e : k - m + m = k := by omega
    rw [e]
    by_cases h32 : k < 32
    · have : k - m < d := by omega
      simp [hk, this]
    · have : x.testBit k = false :=
        Nat.testBit_lt_two_pow (lt_of_lt_of_le hx (Nat.pow_le_pow_right (by omega) (by omega)))
      simp [this]
  · simp [hk]

/-- A word encoded with constant first fields satisfies the format they make up (R101, R104). -/
theorem format_holds (i : Instr) (k : Nat) (hw : totalWidth (fieldsOf i) = 32)
    (hm : (formatOf i).mask.toNat = 2 ^ 32 - 2 ^ totalWidth ((fieldsOf i).drop k))
    (hp : (formatOf i).pattern.toNat =
      packFields ((fieldsOf i).take k) * 2 ^ totalWidth ((fieldsOf i).drop k)) :
    (formatOf i).holds (encode i) = true := by
  have hs := pack_append ((fieldsOf i).take k) ((fieldsOf i).drop k)
  have hlt := packFields_lt (fieldsOf i)
  have hlo := packFields_lt ((fieldsOf i).drop k)
  have hle : totalWidth ((fieldsOf i).drop k) ≤ 32 := by
    have : totalWidth ((fieldsOf i).take k ++ (fieldsOf i).drop k) = 32 := by
      rw [List.take_append_drop, hw]
    simp only [totalWidth, List.map_append, List.sum_append] at this ⊢
    omega
  rw [List.take_append_drop] at hs
  rw [hw] at hlt
  rw [Format.holds, beq_iff_eq]
  apply BitVec.eq_of_toNat_eq
  rw [BitVec.toNat_and, hm, encode, BitVec.toNat_ofNat, Nat.mod_eq_of_lt hlt, and_upper _ _ hle hlt,
    hp, hs, Nat.mul_comm, Nat.mul_comm (packFields _), Nat.mul_add_div (Nat.two_pow_pos _),
    Nat.div_eq_of_lt hlo, Nat.add_zero]

/-! ## Field codes -/

theorem Cond.ofCode_code (c : Cond) : Cond.ofCode (c.code % 16) = some c := by cases c <;> rfl

theorem Term.ofCode_code (t : Term) : Term.ofCode (t.code % 16) = some t := by cases t <;> rfl

theorem MacOpt.ofCode_code (o : MacOpt) : MacOpt.ofCode (o.code % 8) = some o := by cases o <;> rfl

theorem MacOpt1.ofCode_code (o : MacOpt1) : MacOpt1.ofCode (o.code % 2) = o := by cases o <;> rfl

theorem View.ofCode_code (v : View) : View.ofCode (v.code % 4) = some v := by cases v <;> rfl

theorem GClass.ofCode_code (g : GClass) : GClass.ofCode (g.code % 4) = g := by cases g <;> rfl

theorem Ctl.ofCode_code (c : Ctl) : Ctl.ofCode (c.code % 16) = some c := by cases c <;> rfl

theorem Cond.code_of {n : Nat} {c : Cond} (h : Cond.ofCode n = some c) : c.code = n := by
  unfold Cond.ofCode at h
  split at h <;> simp_all <;> subst h <;> rfl

theorem Term.code_of {n : Nat} {t : Term} (h : Term.ofCode n = some t) : t.code = n := by
  unfold Term.ofCode at h
  split at h <;> simp_all <;> subst h <;> rfl

theorem MacOpt.code_of {n : Nat} {o : MacOpt} (h : MacOpt.ofCode n = some o) : o.code = n := by
  unfold MacOpt.ofCode at h
  split at h <;> simp_all <;> subst h <;> rfl

theorem View.code_of {n : Nat} {v : View} (h : View.ofCode n = some v) : v.code = n := by
  unfold View.ofCode at h
  split at h <;> simp_all <;> subst h <;> rfl

theorem Ctl.code_of {n : Nat} {c : Ctl} (h : Ctl.ofCode n = some c) : c.code = n := by
  unfold Ctl.ofCode at h
  split at h <;> simp_all <;> subst h <;> rfl

theorem GClass.code_of (n : Nat) (h : n < 4) : (GClass.ofCode n).code = n := by
  match n, h with
  | 0, _ => rfl
  | 1, _ => rfl
  | 2, _ => rfl
  | 3, _ => rfl

theorem MacOpt1.code_of (n : Nat) (h : n < 2) : (MacOpt1.ofCode n).code = n := by
  match n, h with
  | 0, _ => rfl
  | 1, _ => rfl

/-! ## When the decoder accepts: one lemma per field check -/

theorem withPad_ok (w : IWord) (lo n : Nat) (k : Decoded) (i : Instr) :
    withPad w lo n k = .ok i ↔ fld w lo n = 0 ∧ k = .ok i := by
  unfold withPad; split <;> simp_all

theorem withCond_ok (w : IWord) (k : Cond → Decoded) (i : Instr) :
    withCond w k = .ok i ↔ ∃ c, Cond.ofCode (fld w 0 4) = some c ∧ k c = .ok i := by
  unfold withCond; split <;> simp_all

theorem withTerm_ok (w : IWord) (k : Term → Decoded) (i : Instr) :
    withTerm w k = .ok i ↔ ∃ t, Term.ofCode (fld w 0 4) = some t ∧ k t = .ok i := by
  unfold withTerm; split <;> simp_all

theorem withOpt_ok (w : IWord) (lo : Nat) (k : MacOpt → Decoded) (i : Instr) :
    withOpt w lo k = .ok i ↔ ∃ o, MacOpt.ofCode (fld w lo 3) = some o ∧ k o = .ok i := by
  unfold withOpt; split <;> simp_all

theorem withView_ok (w : IWord) (lo : Nat) (k : View → Decoded) (i : Instr) :
    withView w lo k = .ok i ↔ ∃ v, View.ofCode (fld w lo 2) = some v ∧ k v = .ok i := by
  unfold withView; split <;> simp_all

theorem withCtl_ok (w : IWord) (lo : Nat) (k : Ctl → Decoded) (i : Instr) :
    withCtl w lo k = .ok i ↔ ∃ c, Ctl.ofCode (fld w lo 4) = some c ∧ k c = .ok i := by
  unfold withCtl; split <;> simp_all

theorem withPairs_ok (k : Decoded) (i : Instr) :
    withPairs k = .ok i ↔ k = .ok i ∧ i.wf = true := by
  cases k with
  | error e => simp [withPairs]
  | ok j =>
    cases h : j.wf
    · have : ¬(j = i ∧ i.wf = true) := by rintro ⟨rfl, hi⟩; simp [h] at hi
      simpa [withPairs, h] using this
    · have : j = i → i.wf = true := by rintro rfl; exact h
      simpa [withPairs, h] using this

end Sys2Proof
end

