-- ==== Sys2Proof/Laws/PerInstr.lean ====
section
/-! SUPPORT. Facts about every instruction as syntax, one lemma per constructor: the width of its
template and the format its word belongs to (spec/30_encoding.md R100, R101, R104). -/

namespace Sys2Proof.Laws

/-- The template of every instruction is one word wide (R100, R102). -/
def TemplateWidth.Statement (i : Instr) : Prop := totalWidth (fieldsOf i) = 32

/-- The word of every instruction satisfies the match and mask of its format (R101). -/
def FormatBits.Statement (i : Instr) : Prop := (formatOf i).holds (encode i) = true

theorem TemplateWidth.nop :
    TemplateWidth.Statement .nop := rfl
theorem TemplateWidth.reset :
    TemplateWidth.Statement .reset := rfl
theorem TemplateWidth.pushSts :
    TemplateWidth.Statement .pushSts := rfl
theorem TemplateWidth.popSts :
    TemplateWidth.Statement .popSts := rfl
theorem TemplateWidth.jump (off : BitVec 16) (c : Cond) :
    TemplateWidth.Statement (.jump off c) := rfl
theorem TemplateWidth.call (off : BitVec 16) (c : Cond) :
    TemplateWidth.Statement (.call off c) := rfl
theorem TemplateWidth.rts (c : Cond) :
    TemplateWidth.Statement (.rts c) := rfl
theorem TemplateWidth.doUntil (off : BitVec 16) (term : Term) :
    TemplateWidth.Statement (.doUntil off term) := rfl
theorem TemplateWidth.addRRR (rd : Reg) (rx : Reg) (ry : Reg) (c : Cond) :
    TemplateWidth.Statement (.addRRR rd rx ry c) := rfl
theorem TemplateWidth.addcRRR (rd : Reg) (rx : Reg) (ry : Reg) (c : Cond) :
    TemplateWidth.Statement (.addcRRR rd rx ry c) := rfl
theorem TemplateWidth.subRRR (rd : Reg) (rx : Reg) (ry : Reg) (c : Cond) :
    TemplateWidth.Statement (.subRRR rd rx ry c) := rfl
theorem TemplateWidth.subbRRR (rd : Reg) (rx : Reg) (ry : Reg) (c : Cond) :
    TemplateWidth.Statement (.subbRRR rd rx ry c) := rfl
theorem TemplateWidth.andRRR (rd : Reg) (rx : Reg) (ry : Reg) (c : Cond) :
    TemplateWidth.Statement (.andRRR rd rx ry c) := rfl
theorem TemplateWidth.orRRR (rd : Reg) (rx : Reg) (ry : Reg) (c : Cond) :
    TemplateWidth.Statement (.orRRR rd rx ry c) := rfl
theorem TemplateWidth.xorRRR (rd : Reg) (rx : Reg) (ry : Reg) (c : Cond) :
    TemplateWidth.Statement (.xorRRR rd rx ry c) := rfl
theorem TemplateWidth.notRR (rd : Reg) (rx : Reg) (c : Cond) :
    TemplateWidth.Statement (.notRR rd rx c) := rfl
theorem TemplateWidth.absRR (rd : Reg) (rx : Reg) (c : Cond) :
    TemplateWidth.Statement (.absRR rd rx c) := rfl
theorem TemplateWidth.negRR (rd : Reg) (rx : Reg) (c : Cond) :
    TemplateWidth.Statement (.negRR rd rx c) := rfl
theorem TemplateWidth.cpRR (rd : Reg) (rx : Reg) (c : Cond) :
    TemplateWidth.Statement (.cpRR rd rx c) := rfl
theorem TemplateWidth.ashiftRRR (rd : Reg) (rx : Reg) (ry : Reg) (c : Cond) :
    TemplateWidth.Statement (.ashiftRRR rd rx ry c) := rfl
theorem TemplateWidth.lshiftRRR (rd : Reg) (rx : Reg) (ry : Reg) (c : Cond) :
    TemplateWidth.Statement (.lshiftRRR rd rx ry c) := rfl
theorem TemplateWidth.divsRRR (rd : Reg) (rx : Reg) (ry : Reg) (c : Cond) :
    TemplateWidth.Statement (.divsRRR rd rx ry c) := rfl
theorem TemplateWidth.divqRRR (rd : Reg) (rx : Reg) (ry : Reg) (c : Cond) :
    TemplateWidth.Statement (.divqRRR rd rx ry c) := rfl
theorem TemplateWidth.addRRI (rd : Reg) (rx : Reg) (imm : BitVec 8) (c : Cond) :
    TemplateWidth.Statement (.addRRI rd rx imm c) := rfl
theorem TemplateWidth.addcRRI (rd : Reg) (rx : Reg) (imm : BitVec 8) (c : Cond) :
    TemplateWidth.Statement (.addcRRI rd rx imm c) := rfl
theorem TemplateWidth.subRRI (rd : Reg) (rx : Reg) (imm : BitVec 8) (c : Cond) :
    TemplateWidth.Statement (.subRRI rd rx imm c) := rfl
theorem TemplateWidth.subbRRI (rd : Reg) (rx : Reg) (imm : BitVec 8) (c : Cond) :
    TemplateWidth.Statement (.subbRRI rd rx imm c) := rfl
theorem TemplateWidth.andRRI (rd : Reg) (rx : Reg) (imm : BitVec 8) (c : Cond) :
    TemplateWidth.Statement (.andRRI rd rx imm c) := rfl
theorem TemplateWidth.orRRI (rd : Reg) (rx : Reg) (imm : BitVec 8) (c : Cond) :
    TemplateWidth.Statement (.orRRI rd rx imm c) := rfl
theorem TemplateWidth.xorRRI (rd : Reg) (rx : Reg) (imm : BitVec 8) (c : Cond) :
    TemplateWidth.Statement (.xorRRI rd rx imm c) := rfl
theorem TemplateWidth.ashiftRRI (rd : Reg) (rx : Reg) (imm : BitVec 8) (c : Cond) :
    TemplateWidth.Statement (.ashiftRRI rd rx imm c) := rfl
theorem TemplateWidth.lshiftRRI (rd : Reg) (rx : Reg) (imm : BitVec 8) (c : Cond) :
    TemplateWidth.Statement (.lshiftRRI rd rx imm c) := rfl
theorem TemplateWidth.addC (rd : Reg) (rx : Reg) (ry : Reg) (c : Cond) :
    TemplateWidth.Statement (.addC rd rx ry c) := rfl
theorem TemplateWidth.subC (rd : Reg) (rx : Reg) (ry : Reg) (c : Cond) :
    TemplateWidth.Statement (.subC rd rx ry c) := rfl
theorem TemplateWidth.conjC (rd : Reg) (rx : Reg) (c : Cond) :
    TemplateWidth.Statement (.conjC rd rx c) := rfl
theorem TemplateWidth.polarC (rd : Reg) (rx : Reg) (c : Cond) :
    TemplateWidth.Statement (.polarC rd rx c) := rfl
theorem TemplateWidth.rectC (rd : Reg) (rx : Reg) (c : Cond) :
    TemplateWidth.Statement (.rectC rd rx c) := rfl
theorem TemplateWidth.cpC (rd : Reg) (rx : Reg) (c : Cond) :
    TemplateWidth.Statement (.cpC rd rx c) := rfl
theorem TemplateWidth.mpy (opt : MacOpt) (acc : AccIx) (rx : Reg) (ry : Reg) (c : Cond) :
    TemplateWidth.Statement (.mpy opt acc rx ry c) := rfl
theorem TemplateWidth.mac (opt : MacOpt) (acc : AccIx) (rx : Reg) (ry : Reg) (c : Cond) :
    TemplateWidth.Statement (.mac opt acc rx ry c) := rfl
theorem TemplateWidth.mas (opt : MacOpt) (acc : AccIx) (rx : Reg) (ry : Reg) (c : Cond) :
    TemplateWidth.Statement (.mas opt acc rx ry c) := rfl
theorem TemplateWidth.mpyC (conj : Bool) (opt : MacOpt) (acc : AccIx) (rx : Reg) (ry : Reg)
    (c : Cond) :
    TemplateWidth.Statement (.mpyC conj opt acc rx ry c) := rfl
theorem TemplateWidth.macC (conj : Bool) (opt : MacOpt) (acc : AccIx) (rx : Reg) (ry : Reg)
    (c : Cond) :
    TemplateWidth.Statement (.macC conj opt acc rx ry c) := rfl
theorem TemplateWidth.masC (conj : Bool) (opt : MacOpt) (acc : AccIx) (rx : Reg) (ry : Reg)
    (c : Cond) :
    TemplateWidth.Statement (.masC conj opt acc rx ry c) := rfl
theorem TemplateWidth.cpVR (v : View) (acc : AccIx) (rx : Reg) (c : Cond) :
    TemplateWidth.Statement (.cpVR v acc rx c) := rfl
theorem TemplateWidth.cpRV (rd : Reg) (v : View) (acc : AccIx) (c : Cond) :
    TemplateWidth.Statement (.cpRV rd v acc c) := rfl
theorem TemplateWidth.cpAA (accd : AccIx) (accs : AccIx) (c : Cond) :
    TemplateWidth.Statement (.cpAA accd accs c) := rfl
theorem TemplateWidth.cpGR (g : GClass) (k : GIx) (rx : Reg) (c : Cond) :
    TemplateWidth.Statement (.cpGR g k rx c) := rfl
theorem TemplateWidth.cpRG (rd : Reg) (g : GClass) (k : GIx) (c : Cond) :
    TemplateWidth.Statement (.cpRG rd g k c) := rfl
theorem TemplateWidth.cpCR (ctl : Ctl) (rx : Reg) (c : Cond) :
    TemplateWidth.Statement (.cpCR ctl rx c) := rfl
theorem TemplateWidth.cpRC (rd : Reg) (ctl : Ctl) (c : Cond) :
    TemplateWidth.Statement (.cpRC rd ctl c) := rfl
theorem TemplateWidth.ldRI (rd : Reg) (imm : BitVec 12) (c : Cond) :
    TemplateWidth.Statement (.ldRI rd imm c) := rfl
theorem TemplateWidth.ldGI (g : GClass) (k : GIx) (imm : BitVec 16) :
    TemplateWidth.Statement (.ldGI g k imm) := rfl
theorem TemplateWidth.ldCI (ctl : Ctl) (imm : BitVec 16) :
    TemplateWidth.Statement (.ldCI ctl imm) := rfl
theorem TemplateWidth.ldAbs (r : Reg) (a : BitVec 16) :
    TemplateWidth.Statement (.ldAbs r a) := rfl
theorem TemplateWidth.stAbs (r : Reg) (a : BitVec 16) :
    TemplateWidth.Statement (.stAbs r a) := rfl
theorem TemplateWidth.ldCAbs (r : Reg) (a : BitVec 16) :
    TemplateWidth.Statement (.ldCAbs r a) := rfl
theorem TemplateWidth.stCAbs (r : Reg) (a : BitVec 16) :
    TemplateWidth.Statement (.stCAbs r a) := rfl
theorem TemplateWidth.ldPostM (r : Reg) (i : GIx) (m : GIx) (c : Cond) :
    TemplateWidth.Statement (.ldPostM r i m c) := rfl
theorem TemplateWidth.stPostM (r : Reg) (i : GIx) (m : GIx) (c : Cond) :
    TemplateWidth.Statement (.stPostM r i m c) := rfl
theorem TemplateWidth.ldCPostM (r : Reg) (i : GIx) (m : GIx) (c : Cond) :
    TemplateWidth.Statement (.ldCPostM r i m c) := rfl
theorem TemplateWidth.stCPostM (r : Reg) (i : GIx) (m : GIx) (c : Cond) :
    TemplateWidth.Statement (.stCPostM r i m c) := rfl
theorem TemplateWidth.ldPreM (r : Reg) (i : GIx) (m : GIx) (c : Cond) :
    TemplateWidth.Statement (.ldPreM r i m c) := rfl
theorem TemplateWidth.stPreM (r : Reg) (i : GIx) (m : GIx) (c : Cond) :
    TemplateWidth.Statement (.stPreM r i m c) := rfl
theorem TemplateWidth.ldCPreM (r : Reg) (i : GIx) (m : GIx) (c : Cond) :
    TemplateWidth.Statement (.ldCPreM r i m c) := rfl
theorem TemplateWidth.stCPreM (r : Reg) (i : GIx) (m : GIx) (c : Cond) :
    TemplateWidth.Statement (.stCPreM r i m c) := rfl
theorem TemplateWidth.ldPostI (r : Reg) (i : GIx) (imm : BitVec 8) (c : Cond) :
    TemplateWidth.Statement (.ldPostI r i imm c) := rfl
theorem TemplateWidth.stPostI (r : Reg) (i : GIx) (imm : BitVec 8) (c : Cond) :
    TemplateWidth.Statement (.stPostI r i imm c) := rfl
theorem TemplateWidth.ldCPostI (r : Reg) (i : GIx) (imm : BitVec 8) (c : Cond) :
    TemplateWidth.Statement (.ldCPostI r i imm c) := rfl
theorem TemplateWidth.stCPostI (r : Reg) (i : GIx) (imm : BitVec 8) (c : Cond) :
    TemplateWidth.Statement (.stCPostI r i imm c) := rfl
theorem TemplateWidth.ldPreI (r : Reg) (i : GIx) (imm : BitVec 8) (c : Cond) :
    TemplateWidth.Statement (.ldPreI r i imm c) := rfl
theorem TemplateWidth.stPreI (r : Reg) (i : GIx) (imm : BitVec 8) (c : Cond) :
    TemplateWidth.Statement (.stPreI r i imm c) := rfl
theorem TemplateWidth.ldCPreI (r : Reg) (i : GIx) (imm : BitVec 8) (c : Cond) :
    TemplateWidth.Statement (.ldCPreI r i imm c) := rfl
theorem TemplateWidth.stCPreI (r : Reg) (i : GIx) (imm : BitVec 8) (c : Cond) :
    TemplateWidth.Statement (.stCPreI r i imm c) := rfl
theorem TemplateWidth.addLd (rd : Reg) (rx : Reg) (ry : Reg) (lrd : Reg8) (li : Ix4) (lm : Ix4)
    (c : Cond) :
    TemplateWidth.Statement (.addLd rd rx ry lrd li lm c) := rfl
theorem TemplateWidth.addcLd (rd : Reg) (rx : Reg) (ry : Reg) (lrd : Reg8) (li : Ix4) (lm : Ix4)
    (c : Cond) :
    TemplateWidth.Statement (.addcLd rd rx ry lrd li lm c) := rfl
theorem TemplateWidth.subLd (rd : Reg) (rx : Reg) (ry : Reg) (lrd : Reg8) (li : Ix4) (lm : Ix4)
    (c : Cond) :
    TemplateWidth.Statement (.subLd rd rx ry lrd li lm c) := rfl
theorem TemplateWidth.subbLd (rd : Reg) (rx : Reg) (ry : Reg) (lrd : Reg8) (li : Ix4) (lm : Ix4)
    (c : Cond) :
    TemplateWidth.Statement (.subbLd rd rx ry lrd li lm c) := rfl
theorem TemplateWidth.andLd (rd : Reg) (rx : Reg) (ry : Reg) (lrd : Reg8) (li : Ix4) (lm : Ix4)
    (c : Cond) :
    TemplateWidth.Statement (.andLd rd rx ry lrd li lm c) := rfl
theorem TemplateWidth.orLd (rd : Reg) (rx : Reg) (ry : Reg) (lrd : Reg8) (li : Ix4) (lm : Ix4)
    (c : Cond) :
    TemplateWidth.Statement (.orLd rd rx ry lrd li lm c) := rfl
theorem TemplateWidth.xorLd (rd : Reg) (rx : Reg) (ry : Reg) (lrd : Reg8) (li : Ix4) (lm : Ix4)
    (c : Cond) :
    TemplateWidth.Statement (.xorLd rd rx ry lrd li lm c) := rfl
theorem TemplateWidth.mpyLd (opt : MacOpt) (acc : AccIx) (rx : Reg) (ry : Reg) (lrd : Reg8)
    (li : Ix4) (lm : Ix4) (c : Cond) :
    TemplateWidth.Statement (.mpyLd opt acc rx ry lrd li lm c) := rfl
theorem TemplateWidth.macLd (opt : MacOpt) (acc : AccIx) (rx : Reg) (ry : Reg) (lrd : Reg8)
    (li : Ix4) (lm : Ix4) (c : Cond) :
    TemplateWidth.Statement (.macLd opt acc rx ry lrd li lm c) := rfl
theorem TemplateWidth.masLd (opt : MacOpt) (acc : AccIx) (rx : Reg) (ry : Reg) (lrd : Reg8)
    (li : Ix4) (lm : Ix4) (c : Cond) :
    TemplateWidth.Statement (.masLd opt acc rx ry lrd li lm c) := rfl
theorem TemplateWidth.mpyLdLd (opt : MacOpt1) (acc : Acc4) (rx : Reg8) (ry : Reg8) (l1rd : Reg8)
    (l1i : Ix4) (l1m : Ix4) (l2rd : Reg8) (l2i : Ix4) (l2m : Ix4) (c : Cond) :
    TemplateWidth.Statement (.mpyLdLd opt acc rx ry l1rd l1i l1m l2rd l2i l2m c) := rfl
theorem TemplateWidth.macLdLd (opt : MacOpt1) (acc : Acc4) (rx : Reg8) (ry : Reg8) (l1rd : Reg8)
    (l1i : Ix4) (l1m : Ix4) (l2rd : Reg8) (l2i : Ix4) (l2m : Ix4) (c : Cond) :
    TemplateWidth.Statement (.macLdLd opt acc rx ry l1rd l1i l1m l2rd l2i l2m c) := rfl
theorem TemplateWidth.masLdLd (opt : MacOpt1) (acc : Acc4) (rx : Reg8) (ry : Reg8) (l1rd : Reg8)
    (l1i : Ix4) (l1m : Ix4) (l2rd : Reg8) (l2i : Ix4) (l2m : Ix4) (c : Cond) :
    TemplateWidth.Statement (.masLdLd opt acc rx ry l1rd l1i l1m l2rd l2i l2m c) := rfl
theorem TemplateWidth.ashiftSt (rd : Reg) (rx : Reg) (ry : Reg) (srs : Reg8) (si : Ix4)
    (sm : Ix4) (c : Cond) :
    TemplateWidth.Statement (.ashiftSt rd rx ry srs si sm c) := rfl
theorem TemplateWidth.lshiftSt (rd : Reg) (rx : Reg) (ry : Reg) (srs : Reg8) (si : Ix4)
    (sm : Ix4) (c : Cond) :
    TemplateWidth.Statement (.lshiftSt rd rx ry srs si sm c) := rfl

theorem FormatBits.nop :
    FormatBits.Statement .nop := by
  apply format_holds _ 3 rfl <;> simp [fieldsOf, emitT0, formatOf, packFields]
theorem FormatBits.reset :
    FormatBits.Statement .reset := by
  apply format_holds _ 3 rfl <;> simp [fieldsOf, emitT0, formatOf, packFields]
theorem FormatBits.pushSts :
    FormatBits.Statement .pushSts := by
  apply format_holds _ 3 rfl <;> simp [fieldsOf, emitT0, formatOf, packFields]
theorem FormatBits.popSts :
    FormatBits.Statement .popSts := by
  apply format_holds _ 3 rfl <;> simp [fieldsOf, emitT0, formatOf, packFields]
theorem FormatBits.jump (off : BitVec 16) (c : Cond) :
    FormatBits.Statement (.jump off c) := by
  apply format_holds _ 3 rfl <;> simp [fieldsOf, emitBr, formatOf, packFields]
theorem FormatBits.call (off : BitVec 16) (c : Cond) :
    FormatBits.Statement (.call off c) := by
  apply format_holds _ 3 rfl <;> simp [fieldsOf, emitBr, formatOf, packFields]
theorem FormatBits.rts (c : Cond) :
    FormatBits.Statement (.rts c) := by
  apply format_holds _ 3 rfl <;> simp [fieldsOf, formatOf, packFields]
theorem FormatBits.doUntil (off : BitVec 16) (term : Term) :
    FormatBits.Statement (.doUntil off term) := by
  apply format_holds _ 3 rfl <;> simp [fieldsOf, formatOf, packFields]
theorem FormatBits.addRRR (rd : Reg) (rx : Reg) (ry : Reg) (c : Cond) :
    FormatBits.Statement (.addRRR rd rx ry c) := by
  apply format_holds _ 3 rfl <;> simp [fieldsOf, emitR3, formatOf, packFields]
theorem FormatBits.addcRRR (rd : Reg) (rx : Reg) (ry : Reg) (c : Cond) :
    FormatBits.Statement (.addcRRR rd rx ry c) := by
  apply format_holds _ 3 rfl <;> simp [fieldsOf, emitR3, formatOf, packFields]
theorem FormatBits.subRRR (rd : Reg) (rx : Reg) (ry : Reg) (c : Cond) :
    FormatBits.Statement (.subRRR rd rx ry c) := by
  apply format_holds _ 3 rfl <;> simp [fieldsOf, emitR3, formatOf, packFields]
theorem FormatBits.subbRRR (rd : Reg) (rx : Reg) (ry : Reg) (c : Cond) :
    FormatBits.Statement (.subbRRR rd rx ry c) := by
  apply format_holds _ 3 rfl <;> simp [fieldsOf, emitR3, formatOf, packFields]
theorem FormatBits.andRRR (rd : Reg) (rx : Reg) (ry : Reg) (c : Cond) :
    FormatBits.Statement (.andRRR rd rx ry c) := by
  apply format_holds _ 3 rfl <;> simp [fieldsOf, emitR3, formatOf, packFields]
theorem FormatBits.orRRR (rd : Reg) (rx : Reg) (ry : Reg) (c : Cond) :
    FormatBits.Statement (.orRRR rd rx ry c) := by
  apply format_holds _ 3 rfl <;> simp [fieldsOf, emitR3, formatOf, packFields]
theorem FormatBits.xorRRR (rd : Reg) (rx : Reg) (ry : Reg) (c : Cond) :
    FormatBits.Statement (.xorRRR rd rx ry c) := by
  apply format_holds _ 3 rfl <;> simp [fieldsOf, emitR3, formatOf, packFields]
theorem FormatBits.notRR (rd : Reg) (rx : Reg) (c : Cond) :
    FormatBits.Statement (.notRR rd rx c) := by
  apply format_holds _ 3 rfl <;> simp [fieldsOf, emitR2, formatOf, packFields]
theorem FormatBits.absRR (rd : Reg) (rx : Reg) (c : Cond) :
    FormatBits.Statement (.absRR rd rx c) := by
  apply format_holds _ 3 rfl <;> simp [fieldsOf, emitR2, formatOf, packFields]
theorem FormatBits.negRR (rd : Reg) (rx : Reg) (c : Cond) :
    FormatBits.Statement (.negRR rd rx c) := by
  apply format_holds _ 3 rfl <;> simp [fieldsOf, emitR2, formatOf, packFields]
theorem FormatBits.cpRR (rd : Reg) (rx : Reg) (c : Cond) :
    FormatBits.Statement (.cpRR rd rx c) := by
  apply format_holds _ 3 rfl <;> simp [fieldsOf, emitR2, formatOf, packFields]
theorem FormatBits.ashiftRRR (rd : Reg) (rx : Reg) (ry : Reg) (c : Cond) :
    FormatBits.Statement (.ashiftRRR rd rx ry c) := by
  apply format_holds _ 3 rfl <;> simp [fieldsOf, emitR3, formatOf, packFields]
theorem FormatBits.lshiftRRR (rd : Reg) (rx : Reg) (ry : Reg) (c : Cond) :
    FormatBits.Statement (.lshiftRRR rd rx ry c) := by
  apply format_holds _ 3 rfl <;> simp [fieldsOf, emitR3, formatOf, packFields]
theorem FormatBits.divsRRR (rd : Reg) (rx : Reg) (ry : Reg) (c : Cond) :
    FormatBits.Statement (.divsRRR rd rx ry c) := by
  apply format_holds _ 3 rfl <;> simp [fieldsOf, emitR3, formatOf, packFields]
theorem FormatBits.divqRRR (rd : Reg) (rx : Reg) (ry : Reg) (c : Cond) :
    FormatBits.Statement (.divqRRR rd rx ry c) := by
  apply format_holds _ 3 rfl <;> simp [fieldsOf, emitR3, formatOf, packFields]
theorem FormatBits.addRRI (rd : Reg) (rx : Reg) (imm : BitVec 8) (c : Cond) :
    FormatBits.Statement (.addRRI rd rx imm c) := by
  apply format_holds _ 3 rfl <;> simp [fieldsOf, emitRI, formatOf, packFields]
theorem FormatBits.addcRRI (rd : Reg) (rx : Reg) (imm : BitVec 8) (c : Cond) :
    FormatBits.Statement (.addcRRI rd rx imm c) := by
  apply format_holds _ 3 rfl <;> simp [fieldsOf, emitRI, formatOf, packFields]
theorem FormatBits.subRRI (rd : Reg) (rx : Reg) (imm : BitVec 8) (c : Cond) :
    FormatBits.Statement (.subRRI rd rx imm c) := by
  apply format_holds _ 3 rfl <;> simp [fieldsOf, emitRI, formatOf, packFields]
theorem FormatBits.subbRRI (rd : Reg) (rx : Reg) (imm : BitVec 8) (c : Cond) :
    FormatBits.Statement (.subbRRI rd rx imm c) := by
  apply format_holds _ 3 rfl <;> simp [fieldsOf, emitRI, formatOf, packFields]
theorem FormatBits.andRRI (rd : Reg) (rx : Reg) (imm : BitVec 8) (c : Cond) :
    FormatBits.Statement (.andRRI rd rx imm c) := by
  apply format_holds _ 3 rfl <;> simp [fieldsOf, emitRI, formatOf, packFields]
theorem FormatBits.orRRI (rd : Reg) (rx : Reg) (imm : BitVec 8) (c : Cond) :
    FormatBits.Statement (.orRRI rd rx imm c) := by
  apply format_holds _ 3 rfl <;> simp [fieldsOf, emitRI, formatOf, packFields]
theorem FormatBits.xorRRI (rd : Reg) (rx : Reg) (imm : BitVec 8) (c : Cond) :
    FormatBits.Statement (.xorRRI rd rx imm c) := by
  apply format_holds _ 3 rfl <;> simp [fieldsOf, emitRI, formatOf, packFields]
theorem FormatBits.ashiftRRI (rd : Reg) (rx : Reg) (imm : BitVec 8) (c : Cond) :
    FormatBits.Statement (.ashiftRRI rd rx imm c) := by
  apply format_holds _ 3 rfl <;> simp [fieldsOf, emitRI, formatOf, packFields]
theorem FormatBits.lshiftRRI (rd : Reg) (rx : Reg) (imm : BitVec 8) (c : Cond) :
    FormatBits.Statement (.lshiftRRI rd rx imm c) := by
  apply format_holds _ 3 rfl <;> simp [fieldsOf, emitRI, formatOf, packFields]
theorem FormatBits.addC (rd : Reg) (rx : Reg) (ry : Reg) (c : Cond) :
    FormatBits.Statement (.addC rd rx ry c) := by
  apply format_holds _ 3 rfl <;> simp [fieldsOf, emitR3, formatOf, packFields]
theorem FormatBits.subC (rd : Reg) (rx : Reg) (ry : Reg) (c : Cond) :
    FormatBits.Statement (.subC rd rx ry c) := by
  apply format_holds _ 3 rfl <;> simp [fieldsOf, emitR3, formatOf, packFields]
theorem FormatBits.conjC (rd : Reg) (rx : Reg) (c : Cond) :
    FormatBits.Statement (.conjC rd rx c) := by
  apply format_holds _ 3 rfl <;> simp [fieldsOf, emitR2, formatOf, packFields]
theorem FormatBits.polarC (rd : Reg) (rx : Reg) (c : Cond) :
    FormatBits.Statement (.polarC rd rx c) := by
  apply format_holds _ 3 rfl <;> simp [fieldsOf, emitR2, formatOf, packFields]
theorem FormatBits.rectC (rd : Reg) (rx : Reg) (c : Cond) :
    FormatBits.Statement (.rectC rd rx c) := by
  apply format_holds _ 3 rfl <;> simp [fieldsOf, emitR2, formatOf, packFields]
theorem FormatBits.cpC (rd : Reg) (rx : Reg) (c : Cond) :
    FormatBits.Statement (.cpC rd rx c) := by
  apply format_holds _ 3 rfl <;> simp [fieldsOf, emitR2, formatOf, packFields]
theorem FormatBits.mpy (opt : MacOpt) (acc : AccIx) (rx : Reg) (ry : Reg) (c : Cond) :
    FormatBits.Statement (.mpy opt acc rx ry c) := by
  apply format_holds _ 3 rfl <;> simp [fieldsOf, emitMac, formatOf, packFields]
theorem FormatBits.mac (opt : MacOpt) (acc : AccIx) (rx : Reg) (ry : Reg) (c : Cond) :
    FormatBits.Statement (.mac opt acc rx ry c) := by
  apply format_holds _ 3 rfl <;> simp [fieldsOf, emitMac, formatOf, packFields]
theorem FormatBits.mas (opt : MacOpt) (acc : AccIx) (rx : Reg) (ry : Reg) (c : Cond) :
    FormatBits.Statement (.mas opt acc rx ry c) := by
  apply format_holds _ 3 rfl <;> simp [fieldsOf, emitMac, formatOf, packFields]
theorem FormatBits.mpyC (conj : Bool) (opt : MacOpt) (acc : AccIx) (rx : Reg) (ry : Reg)
    (c : Cond) :
    FormatBits.Statement (.mpyC conj opt acc rx ry c) := by
  apply format_holds _ 3 rfl <;> simp [fieldsOf, emitMacC, formatOf, packFields]
theorem FormatBits.macC (conj : Bool) (opt : MacOpt) (acc : AccIx) (rx : Reg) (ry : Reg)
    (c : Cond) :
    FormatBits.Statement (.macC conj opt acc rx ry c) := by
  apply format_holds _ 3 rfl <;> simp [fieldsOf, emitMacC, formatOf, packFields]
theorem FormatBits.masC (conj : Bool) (opt : MacOpt) (acc : AccIx) (rx : Reg) (ry : Reg)
    (c : Cond) :
    FormatBits.Statement (.masC conj opt acc rx ry c) := by
  apply format_holds _ 3 rfl <;> simp [fieldsOf, emitMacC, formatOf, packFields]
theorem FormatBits.cpVR (v : View) (acc : AccIx) (rx : Reg) (c : Cond) :
    FormatBits.Statement (.cpVR v acc rx c) := by
  apply format_holds _ 3 rfl <;> simp [fieldsOf, formatOf, packFields]
theorem FormatBits.cpRV (rd : Reg) (v : View) (acc : AccIx) (c : Cond) :
    FormatBits.Statement (.cpRV rd v acc c) := by
  apply format_holds _ 3 rfl <;> simp [fieldsOf, formatOf, packFields]
theorem FormatBits.cpAA (accd : AccIx) (accs : AccIx) (c : Cond) :
    FormatBits.Statement (.cpAA accd accs c) := by
  apply format_holds _ 3 rfl <;> simp [fieldsOf, formatOf, packFields]
theorem FormatBits.cpGR (g : GClass) (k : GIx) (rx : Reg) (c : Cond) :
    FormatBits.Statement (.cpGR g k rx c) := by
  apply format_holds _ 3 rfl <;> simp [fieldsOf, formatOf, packFields]
theorem FormatBits.cpRG (rd : Reg) (g : GClass) (k : GIx) (c : Cond) :
    FormatBits.Statement (.cpRG rd g k c) := by
  apply format_holds _ 3 rfl <;> simp [fieldsOf, formatOf, packFields]
theorem FormatBits.cpCR (ctl : Ctl) (rx : Reg) (c : Cond) :
    FormatBits.Statement (.cpCR ctl rx c) := by
  apply format_holds _ 3 rfl <;> simp [fieldsOf, formatOf, packFields]
theorem FormatBits.cpRC (rd : Reg) (ctl : Ctl) (c : Cond) :
    FormatBits.Statement (.cpRC rd ctl c) := by
  apply format_holds _ 3 rfl <;> simp [fieldsOf, formatOf, packFields]
theorem FormatBits.ldRI (rd : Reg) (imm : BitVec 12) (c : Cond) :
    FormatBits.Statement (.ldRI rd imm c) := by
  apply format_holds _ 3 rfl <;> simp [fieldsOf, formatOf, packFields]
theorem FormatBits.ldGI (g : GClass) (k : GIx) (imm : BitVec 16) :
    FormatBits.Statement (.ldGI g k imm) := by
  apply format_holds _ 3 rfl <;> simp [fieldsOf, formatOf, packFields]
theorem FormatBits.ldCI (ctl : Ctl) (imm : BitVec 16) :
    FormatBits.Statement (.ldCI ctl imm) := by
  apply format_holds _ 3 rfl <;> simp [fieldsOf, formatOf, packFields]
theorem FormatBits.ldAbs (r : Reg) (a : BitVec 16) :
    FormatBits.Statement (.ldAbs r a) := by
  apply format_holds _ 3 rfl <;> simp [fieldsOf, emitLsa, formatOf, packFields]
theorem FormatBits.stAbs (r : Reg) (a : BitVec 16) :
    FormatBits.Statement (.stAbs r a) := by
  apply format_holds _ 3 rfl <;> simp [fieldsOf, emitLsa, formatOf, packFields]
theorem FormatBits.ldCAbs (r : Reg) (a : BitVec 16) :
    FormatBits.Statement (.ldCAbs r a) := by
  apply format_holds _ 3 rfl <;> simp [fieldsOf, emitLsa, formatOf, packFields]
theorem FormatBits.stCAbs (r : Reg) (a : BitVec 16) :
    FormatBits.Statement (.stCAbs r a) := by
  apply format_holds _ 3 rfl <;> simp [fieldsOf, emitLsa, formatOf, packFields]
theorem FormatBits.ldPostM (r : Reg) (i : GIx) (m : GIx) (c : Cond) :
    FormatBits.Statement (.ldPostM r i m c) := by
  apply format_holds _ 3 rfl <;> simp [fieldsOf, emitLsm, formatOf, packFields]
theorem FormatBits.stPostM (r : Reg) (i : GIx) (m : GIx) (c : Cond) :
    FormatBits.Statement (.stPostM r i m c) := by
  apply format_holds _ 3 rfl <;> simp [fieldsOf, emitLsm, formatOf, packFields]
theorem FormatBits.ldCPostM (r : Reg) (i : GIx) (m : GIx) (c : Cond) :
    FormatBits.Statement (.ldCPostM r i m c) := by
  apply format_holds _ 3 rfl <;> simp [fieldsOf, emitLsm, formatOf, packFields]
theorem FormatBits.stCPostM (r : Reg) (i : GIx) (m : GIx) (c : Cond) :
    FormatBits.Statement (.stCPostM r i m c) := by
  apply format_holds _ 3 rfl <;> simp [fieldsOf, emitLsm, formatOf, packFields]
theorem FormatBits.ldPreM (r : Reg) (i : GIx) (m : GIx) (c : Cond) :
    FormatBits.Statement (.ldPreM r i m c) := by
  apply format_holds _ 3 rfl <;> simp [fieldsOf, emitLsm, formatOf, packFields]
theorem FormatBits.stPreM (r : Reg) (i : GIx) (m : GIx) (c : Cond) :
    FormatBits.Statement (.stPreM r i m c) := by
  apply format_holds _ 3 rfl <;> simp [fieldsOf, emitLsm, formatOf, packFields]
theorem FormatBits.ldCPreM (r : Reg) (i : GIx) (m : GIx) (c : Cond) :
    FormatBits.Statement (.ldCPreM r i m c) := by
  apply format_holds _ 3 rfl <;> simp [fieldsOf, emitLsm, formatOf, packFields]
theorem FormatBits.stCPreM (r : Reg) (i : GIx) (m : GIx) (c : Cond) :
    FormatBits.Statement (.stCPreM r i m c) := by
  apply format_holds _ 3 rfl <;> simp [fieldsOf, emitLsm, formatOf, packFields]
theorem FormatBits.ldPostI (r : Reg) (i : GIx) (imm : BitVec 8) (c : Cond) :
    FormatBits.Statement (.ldPostI r i imm c) := by
  apply format_holds _ 3 rfl <;> simp [fieldsOf, emitLsi, formatOf, packFields]
theorem FormatBits.stPostI (r : Reg) (i : GIx) (imm : BitVec 8) (c : Cond) :
    FormatBits.Statement (.stPostI r i imm c) := by
  apply format_holds _ 3 rfl <;> simp [fieldsOf, emitLsi, formatOf, packFields]
theorem FormatBits.ldCPostI (r : Reg) (i : GIx) (imm : BitVec 8) (c : Cond) :
    FormatBits.Statement (.ldCPostI r i imm c) := by
  apply format_holds _ 3 rfl <;> simp [fieldsOf, emitLsi, formatOf, packFields]
theorem FormatBits.stCPostI (r : Reg) (i : GIx) (imm : BitVec 8) (c : Cond) :
    FormatBits.Statement (.stCPostI r i imm c) := by
  apply format_holds _ 3 rfl <;> simp [fieldsOf, emitLsi, formatOf, packFields]
theorem FormatBits.ldPreI (r : Reg) (i : GIx) (imm : BitVec 8) (c : Cond) :
    FormatBits.Statement (.ldPreI r i imm c) := by
  apply format_holds _ 3 rfl <;> simp [fieldsOf, emitLsi, formatOf, packFields]
theorem FormatBits.stPreI (r : Reg) (i : GIx) (imm : BitVec 8) (c : Cond) :
    FormatBits.Statement (.stPreI r i imm c) := by
  apply format_holds _ 3 rfl <;> simp [fieldsOf, emitLsi, formatOf, packFields]
theorem FormatBits.ldCPreI (r : Reg) (i : GIx) (imm : BitVec 8) (c : Cond) :
    FormatBits.Statement (.ldCPreI r i imm c) := by
  apply format_holds _ 3 rfl <;> simp [fieldsOf, emitLsi, formatOf, packFields]
theorem FormatBits.stCPreI (r : Reg) (i : GIx) (imm : BitVec 8) (c : Cond) :
    FormatBits.Statement (.stCPreI r i imm c) := by
  apply format_holds _ 3 rfl <;> simp [fieldsOf, emitLsi, formatOf, packFields]
theorem FormatBits.addLd (rd : Reg) (rx : Reg) (ry : Reg) (lrd : Reg8) (li : Ix4) (lm : Ix4)
    (c : Cond) :
    FormatBits.Statement (.addLd rd rx ry lrd li lm c) := by
  apply format_holds _ 3 rfl <;> simp [fieldsOf, emitAluLd, formatOf, packFields]
theorem FormatBits.addcLd (rd : Reg) (rx : Reg) (ry : Reg) (lrd : Reg8) (li : Ix4) (lm : Ix4)
    (c : Cond) :
    FormatBits.Statement (.addcLd rd rx ry lrd li lm c) := by
  apply format_holds _ 3 rfl <;> simp [fieldsOf, emitAluLd, formatOf, packFields]
theorem FormatBits.subLd (rd : Reg) (rx : Reg) (ry : Reg) (lrd : Reg8) (li : Ix4) (lm : Ix4)
    (c : Cond) :
    FormatBits.Statement (.subLd rd rx ry lrd li lm c) := by
  apply format_holds _ 3 rfl <;> simp [fieldsOf, emitAluLd, formatOf, packFields]
theorem FormatBits.subbLd (rd : Reg) (rx : Reg) (ry : Reg) (lrd : Reg8) (li : Ix4) (lm : Ix4)
    (c : Cond) :
    FormatBits.Statement (.subbLd rd rx ry lrd li lm c) := by
  apply format_holds _ 3 rfl <;> simp [fieldsOf, emitAluLd, formatOf, packFields]
theorem FormatBits.andLd (rd : Reg) (rx : Reg) (ry : Reg) (lrd : Reg8) (li : Ix4) (lm : Ix4)
    (c : Cond) :
    FormatBits.Statement (.andLd rd rx ry lrd li lm c) := by
  apply format_holds _ 3 rfl <;> simp [fieldsOf, emitAluLd, formatOf, packFields]
theorem FormatBits.orLd (rd : Reg) (rx : Reg) (ry : Reg) (lrd : Reg8) (li : Ix4) (lm : Ix4)
    (c : Cond) :
    FormatBits.Statement (.orLd rd rx ry lrd li lm c) := by
  apply format_holds _ 3 rfl <;> simp [fieldsOf, emitAluLd, formatOf, packFields]
theorem FormatBits.xorLd (rd : Reg) (rx : Reg) (ry : Reg) (lrd : Reg8) (li : Ix4) (lm : Ix4)
    (c : Cond) :
    FormatBits.Statement (.xorLd rd rx ry lrd li lm c) := by
  apply format_holds _ 3 rfl <;> simp [fieldsOf, emitAluLd, formatOf, packFields]
theorem FormatBits.mpyLd (opt : MacOpt) (acc : AccIx) (rx : Reg) (ry : Reg) (lrd : Reg8)
    (li : Ix4) (lm : Ix4) (c : Cond) :
    FormatBits.Statement (.mpyLd opt acc rx ry lrd li lm c) := by
  apply format_holds _ 3 rfl <;> simp [fieldsOf, emitMacLd, formatOf, packFields]
theorem FormatBits.macLd (opt : MacOpt) (acc : AccIx) (rx : Reg) (ry : Reg) (lrd : Reg8)
    (li : Ix4) (lm : Ix4) (c : Cond) :
    FormatBits.Statement (.macLd opt acc rx ry lrd li lm c) := by
  apply format_holds _ 3 rfl <;> simp [fieldsOf, emitMacLd, formatOf, packFields]
theorem FormatBits.masLd (opt : MacOpt) (acc : AccIx) (rx : Reg) (ry : Reg) (lrd : Reg8)
    (li : Ix4) (lm : Ix4) (c : Cond) :
    FormatBits.Statement (.masLd opt acc rx ry lrd li lm c) := by
  apply format_holds _ 3 rfl <;> simp [fieldsOf, emitMacLd, formatOf, packFields]
theorem FormatBits.mpyLdLd (opt : MacOpt1) (acc : Acc4) (rx : Reg8) (ry : Reg8) (l1rd : Reg8)
    (l1i : Ix4) (l1m : Ix4) (l2rd : Reg8) (l2i : Ix4) (l2m : Ix4) (c : Cond) :
    FormatBits.Statement (.mpyLdLd opt acc rx ry l1rd l1i l1m l2rd l2i l2m c) := by
  apply format_holds _ 3 rfl <;> simp [fieldsOf, emitMacLdLd, formatOf, packFields]
theorem FormatBits.macLdLd (opt : MacOpt1) (acc : Acc4) (rx : Reg8) (ry : Reg8) (l1rd : Reg8)
    (l1i : Ix4) (l1m : Ix4) (l2rd : Reg8) (l2i : Ix4) (l2m : Ix4) (c : Cond) :
    FormatBits.Statement (.macLdLd opt acc rx ry l1rd l1i l1m l2rd l2i l2m c) := by
  apply format_holds _ 3 rfl <;> simp [fieldsOf, emitMacLdLd, formatOf, packFields]
theorem FormatBits.masLdLd (opt : MacOpt1) (acc : Acc4) (rx : Reg8) (ry : Reg8) (l1rd : Reg8)
    (l1i : Ix4) (l1m : Ix4) (l2rd : Reg8) (l2i : Ix4) (l2m : Ix4) (c : Cond) :
    FormatBits.Statement (.masLdLd opt acc rx ry l1rd l1i l1m l2rd l2i l2m c) := by
  apply format_holds _ 3 rfl <;> simp [fieldsOf, emitMacLdLd, formatOf, packFields]
theorem FormatBits.ashiftSt (rd : Reg) (rx : Reg) (ry : Reg) (srs : Reg8) (si : Ix4) (sm : Ix4)
    (c : Cond) :
    FormatBits.Statement (.ashiftSt rd rx ry srs si sm c) := by
  apply format_holds _ 4 rfl <;> simp [fieldsOf, emitShiftSt, formatOf, packFields]
theorem FormatBits.lshiftSt (rd : Reg) (rx : Reg) (ry : Reg) (srs : Reg8) (si : Ix4) (sm : Ix4)
    (c : Cond) :
    FormatBits.Statement (.lshiftSt rd rx ry srs si sm c) := by
  apply format_holds _ 4 rfl <;> simp [fieldsOf, emitShiftSt, formatOf, packFields]

end Sys2Proof.Laws
end

