-- ==== Sys2Proof/Tests/Slice0.lean ====
section
/-! SUPPORT. Tests: ill-formed terms refused, the decoding of a word of every format, single steps
on small states, and for every obligation with hypotheses a state and operands that meet them. Expected
results are the spec's (95_test_vectors.md, cited by row) or worked out by hand from the rule cited. -/

namespace Sys2Proof.Tests

open Sys2Proof Sys2Proof.Machine

/-! ## Ill-formed terms (30_encoding.md R163) -/

/-- An odd register or accumulator in a complex position is refused. -/
theorem test_illformed_complex_alu : ([.addC 3 2 2 .always,
    .addC 2 3 2 .always,
    .addC 2 2 3 .always,
    .subC 3 2 2 .always,
    .subC 2 3 2 .always,
    .subC 2 2 3 .always] : List Instr).map Instr.wf = List.replicate 6 false := by decide

/-- An odd register or accumulator in a complex position is refused. -/
theorem test_illformed_complex_unary : ([.conjC 31 30 .always,
    .conjC 30 31 .always,
    .polarC 31 30 .always,
    .polarC 30 31 .always,
    .rectC 31 30 .always,
    .rectC 30 31 .always,
    .cpC 31 30 .always,
    .cpC 30 31 .always] : List Instr).map Instr.wf = List.replicate 8 false := by decide

/-- An odd register or accumulator in a complex position is refused. -/
theorem test_illformed_complex_multiply : ([.mpyC false .ss 7 2 4 .always,
    .mpyC false .ss 6 3 4 .always,
    .mpyC true .ss 6 2 5 .always,
    .macC false .ss 7 2 4 .always,
    .macC false .ss 6 3 4 .always,
    .macC true .ss 6 2 5 .always,
    .masC false .ss 7 2 4 .always,
    .masC false .ss 6 3 4 .always,
    .masC true .ss 6 2 5 .always] : List Instr).map Instr.wf = List.replicate 9 false := by decide

/-- An odd register or accumulator in a complex position is refused. -/
theorem test_illformed_complex_memory : ([.ldCAbs 1 0,
    .ldCPostM 1 0 0 .always,
    .ldCPreM 1 0 0 .always,
    .ldCPostI 1 0 0 .always,
    .ldCPreI 1 0 0 .always,
    .stCAbs 1 0,
    .stCPostM 1 0 0 .always,
    .stCPreM 1 0 0 .always,
    .stCPostI 1 0 0 .always,
    .stCPreI 1 0 0 .always] : List Instr).map Instr.wf = List.replicate 10 false := by decide

/-- Even numbers in the same positions are accepted. -/
theorem test_wellformed_complex : ([.addC 2 4 30 .always, .cpC 0 30 .always, .macC true .rnd 6 2 4 .eq,
    .stCAbs 30 1] : List Instr).map Instr.wf = List.replicate 4 true := by decide

/-! ## Decoding: every format, rows E of 95_test_vectors.md; those with no row there are written out
from match and fields of opcode_table.json -/

/-- Row E1. -/
theorem test_decode_nop : decode 0x01000000 = .ok (.nop) := by decide

/-- Row E2. -/
theorem test_decode_reset : decode 0x02000000 = .ok (.reset) := by decide

/-- Row E3. -/
theorem test_decode_pushSts : decode 0x03000000 = .ok (.pushSts) := by decide

/-- Row E4. -/
theorem test_decode_popSts : decode 0x04000000 = .ok (.popSts) := by decide

/-- Row E5. -/
theorem test_decode_jump : decode 0x0800005F = .ok (.jump 0x5 .always) := by decide

/-- Row E7. -/
theorem test_decode_call : decode 0x0900020F = .ok (.call 0x20 .always) := by decide

/-- Row E8. -/
theorem test_decode_rts : decode 0x0A00000F = .ok (.rts .always) := by decide

/-- Row E10. -/
theorem test_decode_doUntil : decode 0x0B00003E = .ok (.doUntil 0x3 .ce) := by decide

/-- Row E12. -/
theorem test_decode_addRRR : decode 0x1000022F = .ok (.addRRR 0 1 2 .always) := by decide

/-- Written out from the template. -/
theorem test_decode_addcRRR : decode 0x11026AE4 = .ok (.addcRRR 9 21 14 .lt) := by decide

/-- Row E13. -/
theorem test_decode_subRRR : decode 0x1207FDD4 = .ok (.subRRR 31 30 29 .lt) := by decide

/-- Written out from the template. -/
theorem test_decode_subbRRR : decode 0x13026AE4 = .ok (.subbRRR 9 21 14 .lt) := by decide

/-- Written out from the template. -/
theorem test_decode_andRRR : decode 0x14026AE4 = .ok (.andRRR 9 21 14 .lt) := by decide

/-- Written out from the template. -/
theorem test_decode_orRRR : decode 0x15026AE4 = .ok (.orRRR 9 21 14 .lt) := by decide

/-- Row E14. -/
theorem test_decode_xorRRR : decode 0x16014A5F = .ok (.xorRRR 5 5 5 .always) := by decide

/-- Row E15. -/
theorem test_decode_notRR : decode 0x1800064F = .ok (.notRR 3 4 .always) := by decide

/-- Row E16. -/
theorem test_decode_absRR : decode 0x1900021F = .ok (.absRR 1 1 .always) := by decide

/-- Row E17. -/
theorem test_decode_negRR : decode 0x1A000E85 = .ok (.negRR 7 8 .ge) := by decide

/-- Row E18. -/
theorem test_decode_cpRR : decode 0x1B00154F = .ok (.cpRR 10 20 .always) := by decide

/-- Row E19. -/
theorem test_decode_ashiftRRR : decode 0x1C00443F = .ok (.ashiftRRR 1 2 3 .always) := by decide

/-- Row E20. -/
theorem test_decode_lshiftRRR : decode 0x1D00443F = .ok (.lshiftRRR 1 2 3 .always) := by decide

/-- Row E21. -/
theorem test_decode_divsRRR : decode 0x1E00443F = .ok (.divsRRR 1 2 3 .always) := by decide

/-- Row E22. -/
theorem test_decode_divqRRR : decode 0x1F00443F = .ok (.divqRRR 1 2 3 .always) := by decide

/-- Row E23. -/
theorem test_decode_addRRI : decode 0x2002101F = .ok (.addRRI 1 1 0x1 .always) := by decide

/-- Written out from the template. -/
theorem test_decode_addcRRI : decode 0x21135A54 = .ok (.addcRRI 9 21 0xA5 .lt) := by decide

/-- Row E24. -/
theorem test_decode_subRRI : decode 0x2204102F = .ok (.subRRI 2 1 0x2 .always) := by decide

/-- Written out from the template. -/
theorem test_decode_subbRRI : decode 0x23135A54 = .ok (.subbRRI 9 21 0xA5 .lt) := by decide

/-- Row E25. -/
theorem test_decode_andRRI : decode 0x240840FF = .ok (.andRRI 4 4 0xF .always) := by decide

/-- Written out from the template. -/
theorem test_decode_orRRI : decode 0x25135A54 = .ok (.orRRI 9 21 0xA5 .lt) := by decide

/-- Written out from the template. -/
theorem test_decode_xorRRI : decode 0x26135A54 = .ok (.xorRRI 9 21 0xA5 .lt) := by decide

/-- Row E27. -/
theorem test_decode_ashiftRRI : decode 0x2C022FCF = .ok (.ashiftRRI 1 2 0xFC .always) := by decide

/-- Row E28. -/
theorem test_decode_lshiftRRI : decode 0x2D0220CF = .ok (.lshiftRRI 1 2 0xC .always) := by decide

/-- Row E29. -/
theorem test_decode_addC : decode 0x3000044F = .ok (.addC 0 2 4 .always) := by decide

/-- Row E30. -/
theorem test_decode_subC : decode 0x320190AF = .ok (.subC 6 8 10 .always) := by decide

/-- Row E31. -/
theorem test_decode_conjC : decode 0x3800044F = .ok (.conjC 2 4 .always) := by decide

/-- Row E32. -/
theorem test_decode_polarC : decode 0x3900044F = .ok (.polarC 2 4 .always) := by decide

/-- Row E33. -/
theorem test_decode_rectC : decode 0x3A00044F = .ok (.rectC 2 4 .always) := by decide

/-- Row E34. -/
theorem test_decode_cpC : decode 0x3B0018EF = .ok (.cpC 12 14 .always) := by decide

/-- Row E35. -/
theorem test_decode_mpy : decode 0x4000022F = .ok (.mpy .ss 0 1 2 .always) := by decide

/-- Row E36. -/
theorem test_decode_mac : decode 0x4109C64F = .ok (.mac .rnd 7 3 4 .always) := by decide

/-- Row E37. -/
theorem test_decode_mas : decode 0x4206464F = .ok (.mas .uu 1 3 4 .always) := by decide

/-- Row E38. -/
theorem test_decode_mpyC : decode 0x4400044F = .ok (.mpyC false .ss 0 2 4 .always) := by decide

/-- Row E39. -/
theorem test_decode_macC : decode 0x4518844F = .ok (.macC true .rnd 2 2 4 .always) := by decide

/-- Row E40. -/
theorem test_decode_masC : decode 0x460181EF = .ok (.masC false .ss 6 0 30 .always) := by decide

/-- Row E41. -/
theorem test_decode_cpVR : decode 0x4800269F = .ok (.cpVR .m 3 9 .always) := by decide

/-- Row E42. -/
theorem test_decode_cpRV : decode 0x490012BF = .ok (.cpRV 9 .h 3 .always) := by decide

/-- Row E43. -/
theorem test_decode_cpAA : decode 0x4A00008F = .ok (.cpAA 1 0 .always) := by decide

/-- Row E44. -/
theorem test_decode_cpGR : decode 0x4C00045F = .ok (.cpGR .i 2 5 .always) := by decide

/-- Row E45. -/
theorem test_decode_cpRG : decode 0x4D000AFF = .ok (.cpRG 5 .m 7 .always) := by decide

/-- Row E46. -/
theorem test_decode_cpCR : decode 0x4E00004F = .ok (.cpCR .cntr 4 .always) := by decide

/-- Row E47. -/
theorem test_decode_cpRC : decode 0x4F00016F = .ok (.cpRC 1 .dpid .always) := by decide

/-- Row E48. -/
theorem test_decode_ldRI : decode 0x5000123F = .ok (.ldRI 0 0x123 .always) := by decide

/-- Row E50. -/
theorem test_decode_ldGI : decode 0x51001000 = .ok (.ldGI .i 0 0x1000) := by decide

/-- Row E54. -/
theorem test_decode_ldCI : decode 0x52000001 = .ok (.ldCI .cntr 0x1) := by decide

/-- Row E56. -/
theorem test_decode_ldAbs : decode 0x54001000 = .ok (.ldAbs 0 0x1000) := by decide

/-- Row E58. -/
theorem test_decode_stAbs : decode 0x55022000 = .ok (.stAbs 2 0x2000) := by decide

/-- Row E59. -/
theorem test_decode_ldCAbs : decode 0x56041000 = .ok (.ldCAbs 4 0x1000) := by decide

/-- Row E60. -/
theorem test_decode_stCAbs : decode 0x57041002 = .ok (.stCAbs 4 0x1002) := by decide

/-- Row E61. -/
theorem test_decode_ldPostM : decode 0x58000C1F = .ok (.ldPostM 3 0 1 .always) := by decide

/-- Row E62. -/
theorem test_decode_stPostM : decode 0x59000E51 = .ok (.stPostM 3 4 5 .ne) := by decide

/-- Row E63. -/
theorem test_decode_ldCPostM : decode 0x5A00089F = .ok (.ldCPostM 2 1 1 .always) := by decide

/-- Row E64. -/
theorem test_decode_stCPostM : decode 0x5B00089F = .ok (.stCPostM 2 1 1 .always) := by decide

/-- Row E65. -/
theorem test_decode_ldPreM : decode 0x5C000C1F = .ok (.ldPreM 3 0 1 .always) := by decide

/-- Row E66. -/
theorem test_decode_stPreM : decode 0x5D000C1F = .ok (.stPreM 3 0 1 .always) := by decide

/-- Row E67. -/
theorem test_decode_ldCPreM : decode 0x5E00089F = .ok (.ldCPreM 2 1 1 .always) := by decide

/-- Row E68. -/
theorem test_decode_stCPreM : decode 0x5F00089F = .ok (.stCPreM 2 1 1 .always) := by decide

/-- Row E69. -/
theorem test_decode_ldPostI : decode 0x6001801F = .ok (.ldPostI 3 0 0x1 .always) := by decide

/-- Row E70. -/
theorem test_decode_stPostI : decode 0x61018FFF = .ok (.stPostI 3 0 0xFF .always) := by decide

/-- Row E71. -/
theorem test_decode_ldCPostI : decode 0x6201102F = .ok (.ldCPostI 2 1 0x2 .always) := by decide

/-- Row E72. -/
theorem test_decode_stCPostI : decode 0x6301102F = .ok (.stCPostI 2 1 0x2 .always) := by decide

/-- Row E73. -/
theorem test_decode_ldPreI : decode 0x6401804F = .ok (.ldPreI 3 0 0x4 .always) := by decide

/-- Row E74. -/
theorem test_decode_stPreI : decode 0x65018FCF = .ok (.stPreI 3 0 0xFC .always) := by decide

/-- Row E75. -/
theorem test_decode_ldCPreI : decode 0x6601102F = .ok (.ldCPreI 2 1 0x2 .always) := by decide

/-- Row E76. -/
theorem test_decode_stCPreI : decode 0x6701102F = .ok (.stCPreI 2 1 0x2 .always) := by decide

/-- Row E77. -/
theorem test_decode_addLd : decode 0x8109511F = .ok (.addLd 8 9 10 1 0 1 .always) := by decide

/-- Written out from the template. -/
theorem test_decode_addcLd : decode 0x85357594 = .ok (.addcLd 9 21 14 5 2 1 .lt) := by decide

/-- Written out from the template. -/
theorem test_decode_subLd : decode 0x89357594 = .ok (.subLd 9 21 14 5 2 1 .lt) := by decide

/-- Written out from the template. -/
theorem test_decode_subbLd : decode 0x8D357594 = .ok (.subbLd 9 21 14 5 2 1 .lt) := by decide

/-- Written out from the template. -/
theorem test_decode_andLd : decode 0x91357594 = .ok (.andLd 9 21 14 5 2 1 .lt) := by decide

/-- Written out from the template. -/
theorem test_decode_orLd : decode 0x95357594 = .ok (.orLd 9 21 14 5 2 1 .lt) := by decide

/-- Row E78. -/
theorem test_decode_xorLd : decode 0x9BFEEFF1 = .ok (.xorLd 31 30 29 7 3 3 .ne) := by decide

/-- Row E79. -/
theorem test_decode_mpyLd : decode 0xA001130F = .ok (.mpyLd .ss 0 1 2 3 0 0 .always) := by decide

/-- Row E80. -/
theorem test_decode_macLd : decode 0xACB08B9F = .ok (.macLd .rnd 5 16 17 3 2 1 .always) := by decide

/-- Row E81. -/
theorem test_decode_masLd : decode 0xB021130F = .ok (.masLd .ss 1 1 2 3 0 0 .always) := by decide

/-- Row E83. -/
theorem test_decode_mpyLdLd : decode 0xC7FAF475 = .ok (.mpyLdLd .rnd 3 7 6 5 3 2 4 1 3 .ge) := by decide

/-- Row E82. -/
theorem test_decode_macLdLd : decode 0xC804010F = .ok (.macLdLd .ss 0 0 1 0 0 0 1 0 0 .always) := by decide

/-- Written out from the template. -/
theorem test_decode_masLdLd : decode 0xD6CCDC64 = .ok (.masLdLd .rnd 2 6 3 1 2 3 4 1 2 .lt) := by decide

/-- Row E84. -/
theorem test_decode_ashiftSt : decode 0xE109525F = .ok (.ashiftSt 8 9 10 2 1 1 .always) := by decide

/-- Row E85. -/
theorem test_decode_lshiftSt : decode 0xF109525F = .ok (.lshiftSt 8 9 10 2 1 1 .always) := by decide

/-! ## Illegal words: rows X1 to X15 of 95_test_vectors.md -/

/-- Every illegal word is refused. -/
theorem test_illegal_words : (([0x00000000, 0xFFFFFFFF, 0x1008022F, 0x1000022E, 0x1000022A, 0x3000444F, 0x4400444F, 0x400A022F, 0x4800001F, 0x4F00007F, 0x0B000010, 0x1700000F, 0x9C00000F, 0xB800000F, 0xD800000F] : List IWord).all fun w => match decode w with
    | .ok _ => false
    | .error _ => true) = true := by decide

/-- The bytes of `ADD R0, R1, R2`, most significant first (20_memory.md R87), and a truncated stream. -/
theorem test_decode_bytes : decodeBytes [0x10, 0x00, 0x02, 0x2F, 0x01] = some (.ok (.addRRR 0 1 2 .always), [0x01]) ∧
    decodeBytes [0x10, 0x00, 0x02] = none := by decide

/-- The host's one-word interface. -/
theorem test_decode_table_word : decodeTableWord 32 0x1000022F = some (.addRRR 0 1 2 .always) ∧
    decodeTableWord 32 0xFFFFFFFF = none := by decide
/-! ## Single steps -/

/-- A state after reset with the given registers, accumulators and real flags in every lane. -/
def start (rs : List (Reg × DWord)) (ks : List (AccIx × AccWord)) (f : FlagBundle) : State :=
  let ln : LaneState := { LaneState.reset with astatR := f, astatC := f }
  let ln := rs.foldl (fun ln e => setR ln e.1 e.2) ln
  { State.reset with lanes := Lanes.all (ks.foldl (fun ln e => setAcc ln e.1 e.2) ln) }

/-- The state after one instruction. -/
def after (i : Instr) (s : State) : State :=
  match exec i s with
  | .next t => t
  | .fault _ => s
  | .refused _ => s

/-- `R1` and `AZ AN AV AC AS` of lane 3 after an instruction on `R2`, `R3` with carry `c`. -/
def alu (i : Instr) (x y : DWord) (c : Bool) : DWord × List Bool :=
  let ln := (after i (start [(2, x), (3, y)] [] (if c then 8 else 0))).lane 3
  (getR ln 1, [Flag.az, .an, .av, .ac, .asn].map (flagOf ln.astatR))

theorem test_add : alu (.addRRR 1 2 3 .always) 0x800 0x800 false = (0x000, [true, false, true, true, false]) := by decide  -- A3
theorem test_add_imm : alu (.addRRI 1 2 0xFF .always) 0x123 0 false = (0x122, [false, false, false, true, false]) := by decide  -- A6
theorem test_addc : alu (.addcRRR 1 2 3 .always) 0x7FF 0x000 true = (0x800, [false, true, true, false, false]) := by decide  -- A9
theorem test_addc_imm : alu (.addcRRI 1 2 0x02 .always) 0x001 0 true = (0x004, [false, false, false, false, false]) := by decide  -- A7
theorem test_sub : alu (.subRRR 1 2 3 .always) 0x7FF 0xFFF false = (0x800, [false, true, true, false, false]) := by decide  -- A14
theorem test_sub_imm : alu (.subRRI 1 2 0x01 .always) 0x800 0 false = (0x7FF, [false, false, true, true, false]) := by decide  -- A13
theorem test_subb : alu (.subbRRR 1 2 3 .always) 0x800 0x000 false = (0x7FF, [false, false, true, true, false]) := by decide  -- A20
theorem test_subb_imm : alu (.subbRRI 1 2 0x03 .always) 0x005 0 false = (0x001, [false, false, false, true, false]) := by decide  -- A18
theorem test_and : alu (.andRRR 1 2 3 .always) 0xF0F 0x0FF true = (0x00F, [false, false, false, false, false]) := by decide  -- A21
theorem test_and_imm : alu (.andRRI 1 2 0x80 .always) 0xFFF 0 false = (0xF80, [false, true, false, false, false]) := by decide  -- section 5, immediates
theorem test_or : alu (.orRRR 1 2 3 .always) 0xF00 0x0FF false = (0xFFF, [false, true, false, false, false]) := by decide  -- A23
theorem test_or_imm : alu (.orRRI 1 2 0x7F .always) 0x000 0 true = (0x07F, [false, false, false, false, false]) := by decide
theorem test_xor : alu (.xorRRR 1 2 3 .always) 0xAAA 0xAAA false = (0x000, [true, false, false, false, false]) := by decide  -- A25
theorem test_xor_imm : alu (.xorRRI 1 2 0xFF .always) 0x0F0 0 false = (0xF0F, [false, true, false, false, false]) := by decide
theorem test_not : alu (.notRR 1 2 .always) 0x0F0 0 true = (0xF0F, [false, true, false, false, false]) := by decide  -- A29
theorem test_abs : alu (.absRR 1 2 .always) 0x800 0 false = (0x800, [false, true, true, false, true]) := by decide  -- A32
theorem test_abs_negative : alu (.absRR 1 2 .always) 0xFFB 0 false = (0x005, [false, false, false, false, true]) := by decide  -- A31
theorem test_neg : alu (.negRR 1 2 .always) 0x000 0 false = (0x000, [true, false, false, true, false]) := by decide  -- A35
theorem test_neg_least : alu (.negRR 1 2 .always) 0x800 0 false = (0x800, [false, true, true, false, false]) := by decide  -- A36
theorem test_cp_writes_no_flag : alu (.cpRR 1 2 .always) 0x800 0 true = (0x800, [false, false, false, true, false]) := by decide

/-- `R1` and `SV SS SVS` of lane 2 after a shift of `R2` by `R3`. -/
def shift (i : Instr) (x y : DWord) : DWord × List Bool :=
  let ln := (after i (start [(2, x), (3, y)] [] 0)).lane 2
  (getR ln 1, [Flag.sv, .ss, .svs].map (flagOf ln.astatR))

theorem test_ashift : shift (.ashiftRRR 1 2 3 .always) 0xBFF 0x001 = (0x7FE, [true, true, true]) := by decide  -- S5
theorem test_ashift_right : shift (.ashiftRRR 1 2 3 .always) 0x800 0x800 = (0xFFF, [false, true, false]) := by decide  -- S13
theorem test_ashift_imm : shift (.ashiftRRI 1 2 100 .always) 0x001 0 = (0x000, [true, false, true]) := by decide  -- S8
theorem test_lshift : shift (.lshiftRRR 1 2 3 .always) 0xFFF 0x004 = (0xFF0, [true, true, true]) := by decide  -- S19
theorem test_lshift_imm : shift (.lshiftRRI 1 2 0xF5 .always) 0x800 0 = (0x001, [false, true, false]) := by decide  -- S23

/-- `ACC0` and `MV MVS` of lane 1 after a multiplier instruction on `R2`, `R3`. -/
def mult (i : Instr) (a : AccWord) (x y : DWord) : AccWord × List Bool :=
  let ln := (after i (start [(2, x), (3, y)] [(0, a)] 0)).lane 1
  (getAcc ln 0, [Flag.mv, .mvs].map (flagOf ln.astatR))

theorem test_mpy_uu : mult (.mpy .uu 0 2 3 .always) 0 0xFFF 0xFFF = (0x00FFE001, [true, true]) := by decide  -- M5
theorem test_mpy_us : mult (.mpy .us 0 2 3 .always) 0 0xFFF 0x002 = (0x00001FFE, [false, false]) := by decide  -- M7
theorem test_mac : mult (.mac .ss 0 2 3 .always) 0x7FFFF000 0x7FF 0x7FF = (0x7FFFFFFF, [true, true]) := by decide  -- M14
theorem test_mac_rnd : mult (.mac .rnd 0 2 3 .always) 0x000007FF 0 0 = (0x00000FFF, [false, false]) := by decide  -- M16
theorem test_mas : mult (.mas .ss 0 2 3 .always) 0xFF800000 1 1 = (0xFF7FFFFF, [true, true]) := by decide  -- M21
theorem test_mas_saturates : mult (.mas .ss 0 2 3 .always) 0x80000000 0x800 0x800 = (0x80000000, [true, true]) := by decide  -- M22

/-- `R10:R11` and the written flags of the three bundles after a complex instruction on `R2:R3`,
`R4:R5`. -/
def cplx (i : Instr) (xr xi yr yi : DWord) : DWord × DWord × List (List Bool) :=
  let ln := (after i (start [(2, xr), (3, xi), (4, yr), (5, yi)] [] 0)).lane 0
  (getR ln 10, getR ln 11, [ln.astatR, ln.astatI, ln.astatC].map fun b =>
    [Flag.az, .an, .av, .ac].map (flagOf b))

theorem test_add_c : cplx (.addC 10 2 4 .always) 0 0x800 0 0x800 =
    (0, 0, [[true, false, false, false], [true, false, true, true], [true, false, true, true]]) := by decide  -- C3
theorem test_sub_c : cplx (.subC 10 2 4 .always) 0x800 0x7FF 0x001 0xFFF =
    (0x7FF, 0x800, [[false, false, true, true], [false, true, true, false], [false, true, true, true]]) := by decide  -- C6
theorem test_conj_c : cplx (.conjC 10 2 .always) 0x800 0x800 0 0 =
    (0x800, 0x800, [[false, true, false, false], [false, true, true, false], [false, true, true, false]]) := by decide  -- C9
theorem test_cp_c : cplx (.cpC 10 2 .always) 0x123 0x456 0 0 =
    (0x123, 0x456, [[false, false, false, false], [false, false, false, false], [false, false, false, false]]) := by decide

/-- `ACC2:ACC3` and `MV` of the three bundles after a complex multiply of `R2:R3` and `R4:R5`. -/
def cmult (i : Instr) (ar ai : AccWord) (xr xi yr yi : DWord) : AccWord × AccWord × List Bool :=
  let ln := (after i (start [(2, xr), (3, xi), (4, yr), (5, yi)] [(2, ar), (3, ai)] 0)).lane 3
  (getAcc ln 2, getAcc ln 3, [ln.astatR, ln.astatI, ln.astatC].map fun b => flagOf b .mv)

theorem test_mpy_c : cmult (.mpyC false .ss 2 2 4 .always) 0 0 1 2 3 4 = (0xFFFFFFFB, 0xA, [false, false, false]) := by decide  -- MC1
theorem test_mpy_c_conj : cmult (.mpyC true .ss 2 2 4 .always) 0 0 0x800 0x800 0x800 0x800 =
    (0x00800000, 0, [true, false, true]) := by decide  -- MC5
theorem test_mac_c : cmult (.macC false .ss 2 2 4 .always) 0xA 0x14 0xFFF 1 2 0xFFE = (0xA, 0x18, [false, false, false]) := by decide  -- MC3
theorem test_mas_c : cmult (.masC false .ss 2 2 4 .always) 0 0 0x800 0x800 0x800 0x800 = (0, 0xFF800000, [false, false, false]) := by decide  -- MC4

theorem test_view_write : getAcc ((after (.cpVR .m 0 1 .always) (start [(1, 0xFAB)] [(0, 0x12345678)] 0)).lane 0) 0 =
    0x12FAB678 := by decide  -- V2
theorem test_view_write_high : getAcc ((after (.cpVR .h 0 1 .always) (start [(1, 0xFAB)] [(0, 0x12345678)] 0)).lane 0) 0 =
    0xAB345678 := by decide  -- V1
theorem test_view_read : getR ((after (.cpRV 1 .h 0 .always) (start [] [(0, 0x80FFF001)] 0)).lane 0) 1 = 0xF80 := by decide  -- V4
theorem test_cp_acc : getAcc ((after (.cpAA 5 0 .always) (start [] [(0, 0x80FFF001)] 0)).lane 2) 5 = 0x80FFF001 := by decide

/-- `CP M, R` sign-extends, `CP I, R` zero-extends (44_move_load_store.md R277). -/
theorem test_cp_address_register : readG (after (.cpGR .m 7 1 .always) (start [(1, 0xFFE)] [] 0)) .m 7 = 0xFFFE ∧
    readG (after (.cpGR .i 7 1 .always) (start [(1, 0xFFE)] [] 0)) .i 7 = 0x0FFE := by decide
theorem test_cp_from_address_register :
    getR ((after (.cpRG 1 .b 2 .always) { State.reset with b := State.reset.b.set 2 0xABCD }).lane 1) 1 = 0xBCD := by decide
theorem test_cp_control : (after (.cpCR .cntr 1 .always) (start [(1, 0xFFE)] [] 0)).cntr = 0x0FFE ∧
    (after (.cpCR .mstat 1 .always) (start [(1, 0xFFE)] [] 0)).mstat = 0 := by decide
/-- `_DPID` is the lane number (P1). -/
theorem test_cp_from_control : (List.finRange 4).map (fun n => getR ((after (.cpRC 1 .dpid .always) State.reset).lane n) 1) =
    [0, 1, 2, 3] := by decide
theorem test_ld_constant : getR ((after (.ldRI 7 0xABC .always) State.reset).lane 3) 7 = 0xABC := by decide
theorem test_ld_address_register : readG (after (.ldGI .l 3 0x8001) State.reset) .l 3 = 0x8001 := by decide
theorem test_ld_control : (after (.ldCI .cntr 0x8001) State.reset).cntr = 0x8001 ∧
    ((after (.ldCI .astatI 0xF801) State.reset).lane 2).astatI = 0x801 := by decide

/-- A state whose lanes hold 0x5a1, 0x5a2 at 0x0100, 0x0101, with `I1` = 0x0100, `M2` = 1, `R6:R7` = 0x123, 0x456. -/
def loaded : State :=
  { start [(6, 0x123), (7, 0x456)] [] 0 with
    lanes := Lanes.all { (start [(6, 0x123), (7, 0x456)] [] 0).lane 0 with dm := [(0x100, 0x5a1), (0x101, 0x5a2)] }
    i := State.reset.i.set 1 0x100, m := State.reset.m.set 2 1 }

/-- `R2:R3`, the words at 0x0100 to 0x0102 that are listed, and `I1` after a load or store. -/
def mem (i : Instr) : List Nat :=
  let t := after i loaded
  [(getR (t.lane 1) 2).toNat, (getR (t.lane 1) 3).toNat, (readG t .i 1).toNat] ++
    (t.lane 1).dm.flatMap fun e => [e.1, e.2.toNat]

theorem test_ld_abs : mem (.ldAbs 2 0x101) = [0x5a2, 0, 0x100, 0x100, 0x5a1, 0x101, 0x5a2] := by decide
theorem test_st_abs : mem (.stAbs 6 0x101) = [0, 0, 0x100, 0x100, 0x5a1, 0x101, 0x123] := by decide
theorem test_ld_c_abs : mem (.ldCAbs 2 0x100) = [0x5a1, 0x5a2, 0x100, 0x100, 0x5a1, 0x101, 0x5a2] := by decide
theorem test_st_c_abs : mem (.stCAbs 6 0x100) = [0, 0, 0x100, 0x100, 0x123, 0x101, 0x456] := by decide
theorem test_ld_post_m : mem (.ldPostM 2 1 2 .always) = [0x5a1, 0, 0x101, 0x100, 0x5a1, 0x101, 0x5a2] := by decide
theorem test_st_post_m : mem (.stPostM 6 1 2 .always) = [0, 0, 0x101, 0x100, 0x123, 0x101, 0x5a2] := by decide
theorem test_ld_c_post_m : mem (.ldCPostM 2 1 2 .always) = [0x5a1, 0x5a2, 0x101, 0x100, 0x5a1, 0x101, 0x5a2] := by decide
theorem test_st_c_post_m : mem (.stCPostM 6 1 2 .always) = [0, 0, 0x101, 0x100, 0x123, 0x101, 0x456] := by decide
theorem test_ld_pre_m : mem (.ldPreM 2 1 2 .always) = [0x5a2, 0, 0x100, 0x100, 0x5a1, 0x101, 0x5a2] := by decide
theorem test_st_pre_m : mem (.stPreM 6 1 2 .always) = [0, 0, 0x100, 0x100, 0x5a1, 0x101, 0x123] := by decide
theorem test_ld_c_pre_m : mem (.ldCPreM 2 1 3 .always) = [0x5a1, 0x5a2, 0x100, 0x100, 0x5a1, 0x101, 0x5a2] := by decide
theorem test_st_c_pre_m_unaligned : mem (.stCPreM 6 1 2 .always) = [0, 0, 0x100, 0x100, 0x5a1, 0x101, 0x5a2] := by decide
theorem test_ld_post_i : mem (.ldPostI 2 1 0xFE .always) = [0x5a1, 0, 0xFE, 0x100, 0x5a1, 0x101, 0x5a2] := by decide
theorem test_st_post_i : mem (.stPostI 6 1 0x04 .always) = [0, 0, 0x104, 0x100, 0x123, 0x101, 0x5a2] := by decide
theorem test_ld_c_post_i : mem (.ldCPostI 2 1 0x02 .always) = [0x5a1, 0x5a2, 0x102, 0x100, 0x5a1, 0x101, 0x5a2] := by decide
theorem test_st_c_post_i : mem (.stCPostI 6 1 0x02 .always) = [0, 0, 0x102, 0x100, 0x123, 0x101, 0x456] := by decide
theorem test_ld_pre_i : mem (.ldPreI 2 1 0x01 .always) = [0x5a2, 0, 0x100, 0x100, 0x5a1, 0x101, 0x5a2] := by decide
theorem test_st_pre_i : mem (.stPreI 6 1 0xFF .always) = [0, 0, 0x100, 0xFF, 0x123, 0x100, 0x5a1, 0x101, 0x5a2] := by decide
theorem test_ld_c_pre_i : mem (.ldCPreI 2 1 0x00 .always) = [0x5a1, 0x5a2, 0x100, 0x100, 0x5a1, 0x101, 0x5a2] := by decide
theorem test_st_c_pre_i : mem (.stCPreI 6 1 0x02 .always) =
    [0, 0, 0x100, 0x100, 0x5a1, 0x101, 0x5a2, 0x102, 0x123, 0x103, 0x456] := by decide

/-- Rows G5, G6, G7, G9: circular buffers. -/
theorem test_circular : ([(0x1003, 1), (0x1000, 0xFFFF), (0x1002, 3), (0x1001, 0xFFFC)] : List (Addr × Addr)).map (fun e =>
    nextIndex { State.reset with i := State.reset.i.set 0 e.1, l := State.reset.l.set 0 4, b := State.reset.b.set 0 0x1000 } 0 e.2) =
    [0x1000, 0x1003, 0x1001, 0x1001] := by decide
/-- Rows G10, G11, G12, G16: bit reversal. -/
theorem test_bit_reversal : let s := { State.reset with mstat := 1, i := (((State.reset.i.set 0 1).set 3 0x8000).set 4 1), m := State.reset.m.set 0 1 }
    [effAddr s (.postM 0 0), effAddr s (.postM 3 0), effAddr s (.postM 4 0), effAddr s (.preM 0 0)] =
    [0x8000, 0x0001, 0x0001, 0x0002] := by decide

theorem test_jump : (after (.jump 0xFFFD .always) { State.reset with pc := 0x10 }).pc = 0x000D := by decide  -- E6
theorem test_jump_not_taken : (after (.jump 0xFFFD .eq) { State.reset with pc := 0x10 }).pc = 0x0011 := by decide
theorem test_call : let t := after (.call 0x20 .always) { State.reset with pc := 0x10 }
    t.pc = 0x30 ∧ t.pcStk = [0x11] := by decide
theorem test_call_with_slot : let t := after (.call 0x20 .always) { State.reset with pc := 0x10, params := { Params.default with delaySlot := true } }
    t.pc = 0x11 ∧ t.pcStk = [0x12] ∧ t.dsPending = true ∧ t.dsTarget = 0x30 := by decide
theorem test_rts : let t := after (.rts .always) { State.reset with pc := 0x10, pcStk := [0x44, 0x55] }
    t.pc = 0x44 ∧ t.pcStk = [0x55] := by decide
theorem test_rts_underflow : let t := after (.rts .always) { State.reset with pc := 0x10 }
    t.pc = 0x11 ∧ t.sstat = 0x02 := by decide
theorem test_do : (after (.doUntil 1 .ce) { State.reset with pc := 8, cntr := 4 }).lpStk = [⟨9, 10, 4, false⟩] := by decide
theorem test_loop_end : let t := after .nop { State.reset with pc := 10, lpStk := [⟨9, 10, 1, false⟩] }
    t.pc = 11 ∧ t.lpStk = [] := by decide
theorem test_loop_repeats : let t := after .nop { State.reset with pc := 10, lpStk := [⟨9, 10, 0, false⟩] }
    t.pc = 9 ∧ t.lpStk = [⟨9, 10, 0xFFFF, false⟩] := by decide
theorem test_push_sts : (after .pushSts (start [] [] 0x123)).stsStk.map (fun e => (e.bundles.get 2).real) = [0x123] := by decide
theorem test_pop_sts_underflow : (after .popSts (start [] [] 0x123)).sstat = 0x20 := by decide
theorem test_pop_sts : ((after .popSts (after .reset { start [] [] 0x123 with stsStk := [] })).lane 1).astatR = 0 ∧
    ((after .popSts { State.reset with stsStk := [statusEntry (start [] [] 0x123)] }).lane 1).astatR = 0x123 := by decide
theorem test_reset : let t := after .reset { start [(1, 5)] [] 0x123 with sstat := 0x3F, mstat := 1, pcStk := [1] }
    (t.lane 0).astatR = 0 ∧ t.sstat = 0 ∧ t.mstat = 0 ∧ t.pcStk = [] ∧ getR (t.lane 0) 1 = 5 := by decide

/-- `R1`, the loaded `R5` and the index register of a bundle on `R2` = 7, `R3` = 3, `ACC1` = 0x10, with `I1`, `M2`. -/
def bundle (i : Instr) : List Int :=
  let s := { loaded with lanes := Lanes.all (setR (setR (setAcc (loaded.lane 0) 1 0x10) 2 7) 3 3) }
  let t := after i s
  [(getR (t.lane 0) 1).toInt, (getR (t.lane 0) 5).toInt, (getAcc (t.lane 0) 1).toInt, (readG t .i 1).toNat]

theorem test_add_ld : bundle (.addLd 1 2 3 5 1 2 .always) = [10, 0x5a1, 0x10, 0x101] := by decide
theorem test_addc_ld : bundle (.addcLd 1 2 3 5 1 2 .always) = [10, 0x5a1, 0x10, 0x101] := by decide
theorem test_sub_ld : bundle (.subLd 1 2 3 5 1 2 .always) = [4, 0x5a1, 0x10, 0x101] := by decide
theorem test_subb_ld : bundle (.subbLd 1 2 3 5 1 2 .always) = [3, 0x5a1, 0x10, 0x101] := by decide
theorem test_and_ld : bundle (.andLd 1 2 3 5 1 2 .always) = [3, 0x5a1, 0x10, 0x101] := by decide
theorem test_or_ld : bundle (.orLd 1 2 3 5 1 2 .always) = [7, 0x5a1, 0x10, 0x101] := by decide
theorem test_xor_ld : bundle (.xorLd 1 2 3 5 1 2 .always) = [4, 0x5a1, 0x10, 0x101] := by decide
/-- Identical destinations: the whole word is an `E_STRUCT` no-op (47_multifunction.md R383). -/
theorem test_bundle_error : bundle (.addLd 5 2 3 5 1 2 .always) = [0, 0, 0x10, 0x100] := by decide
theorem test_mpy_ld : bundle (.mpyLd .ss 1 2 3 5 1 2 .always) = [0, 0x5a1, 21, 0x101] := by decide
theorem test_mac_ld : bundle (.macLd .ss 1 2 3 5 1 2 .always) = [0, 0x5a1, 37, 0x101] := by decide
theorem test_mas_ld : bundle (.masLd .ss 1 2 3 5 1 2 .always) = [0, 0x5a1, -5, 0x101] := by decide

/-- The 3-way bundle on the same state with `I5` = 0x0101, `M4` = 3: `ACC1`, both loaded registers, both index registers. -/
def bundle3 (i : Instr) : List Int :=
  let s := { loaded with
    lanes := Lanes.all (setR (setR (setAcc (loaded.lane 0) 1 0x10) 2 7) 3 3)
    i := loaded.i.set 5 0x101, m := loaded.m.set 4 3 }
  let t := after i s
  [(getAcc (t.lane 0) 1).toInt, (getR (t.lane 0) 2).toInt, (getR (t.lane 0) 5).toInt,
    (readG t .i 1).toNat, (readG t .i 5).toNat]

theorem test_mpy_ld_ld : bundle3 (.mpyLdLd .ss 1 2 3 2 1 2 5 1 0 .always) = [21, 0x5a1, 0x5a2, 0x101, 0x104] := by decide
theorem test_mac_ld_ld : bundle3 (.macLdLd .ss 1 2 3 2 1 2 5 1 0 .always) = [37, 0x5a1, 0x5a2, 0x101, 0x104] := by decide
theorem test_mas_ld_ld : bundle3 (.masLdLd .rnd 1 2 3 2 1 2 5 1 0 .always) = [2043, 0x5a1, 0x5a2, 0x101, 0x104] := by decide

/-- The shift result in `R2` and the word stored from the old `R2` (47_multifunction.md R387, R388). -/
def shiftStore (i : Instr) : List Nat :=
  let s := { loaded with lanes := Lanes.all (setR (setR (loaded.lane 0) 2 0x801) 3 0xFFF) }
  let t := after i s
  [(getR (t.lane 2) 2).toNat, (readG t .i 1).toNat] ++ (t.lane 2).dm.flatMap fun e => [e.1, e.2.toNat]

theorem test_ashift_st : shiftStore (.ashiftSt 2 2 3 2 1 2 .always) = [0xC00, 0x101, 0x100, 0x801, 0x101, 0x5a2] := by decide
theorem test_lshift_st : shiftStore (.lshiftSt 2 2 3 2 1 2 .always) = [0x400, 0x101, 0x100, 0x801, 0x101, 0x5a2] := by decide

/-- Section 12, mask 0101: only the selected lanes change. -/
theorem test_lane_mask :
    let ln := fun (f : FlagBundle) (v : DWord) => setR (setR { LaneState.reset with astatR := f } 1 1) 2 v
    let t := after (.addRRR 2 2 1 .eq) { State.reset with lanes := ⟨ln 1 0x10, ln 0 0x20, ln 1 0x30, ln 0 0x40⟩ }
    (List.finRange 4).map (fun n => getR (t.lane n) 2) = [0x011, 0x020, 0x031, 0x040] := by decide

/-- Two words from the encoder's input (rows E12 and E6), and an operand that has no encoding. -/
theorem test_encoder : (encodeProgram [
      ⟨1, 0x10, .operation ⟨.jump, [.const 0x0D], none, false⟩ [], some .ne, some 0x08⟩,
      ⟨2, 0x0F, .operation ⟨.add, [.reg 0, .reg 1, .reg 2], none, false⟩ [], none, none⟩,
      ⟨3, 0x11, .operation ⟨.add, [.reg 0, .reg 1, .const 300], none, false⟩ [], none, none⟩]).words =
    [(0x0F, 0x1000022F), (0x10, 0x080FFFD1), (0x11, 0xFFFFFFFF)] := by decide
/-- The class of the error of one record without condition or format, `none` where it encodes. -/
def encoderClass (h : Operation) (sibs : List Operation) : Option ErrorClass :=
  (encodeRecord .empty ⟨1, 0, .operation h sibs, none, none⟩).errLog.head?.map EncoderError.cls
/-- An operation without option or conjugate flag. -/
def plainOp (m : Mnemonic) (ts : List Token) : Operation := ⟨m, ts, none, false⟩
/-- No row is an encoding error before a stray option is looked at (30_encoding.md R152 steps 2 and 3,
60_exceptions.md R405); a program-memory operand has no row (20_memory.md R71). -/
theorem test_encoder_lookup_first :
    encoderClass ⟨.unknown, [], some .rnd, true⟩ [] = some .enc ∧ encoderClass ⟨.nop, [.reg 0], some .rnd, false⟩ [] = some .enc ∧
    encoderClass (plainOp .ld [.reg 0, .pm 5]) [] = some .enc ∧ encoderClass ⟨.nop, [], some .rnd, false⟩ [] = some .shape := by
  decide
/-- Bundles: no such shape (30_encoding.md R173), a shape outside its limits (47_multifunction.md R381), a legal one. -/
theorem test_encoder_bundles :
    let ld := plainOp .ld [.reg 3, .dmPostM 1 2]
    encoderClass (plainOp .jump [.const 0]) [ld] = some .enc ∧ encoderClass (plainOp .add [.reg 0, .reg 1, .reg 2]) [ld, ld] = some .enc ∧
    encoderClass (plainOp .not [.reg 0, .reg 1]) [ld] = some .shape ∧
    encoderClass (plainOp .add [.reg 0, .reg 1, .reg 2]) [plainOp .ldC [.reg 0, .dmPostM 1 2]] = some .shape ∧
    encoderClass (plainOp .add [.reg 0, .reg 1, .reg 2]) [ld] = none := by decide
/-- A format that the resolution pass has set (30_encoding.md R150) and that is not the record's; the offending token. -/
theorem test_encoder_format_id :
    (encodeRecord .empty ⟨4, 5, .operation (plainOp .cp [.reg 0, .reg 1]) [], none, some 0x4D⟩).errLog = [⟨.enc, 4, 5, .formatId 0x4D⟩] ∧
    (encodeRecord .empty ⟨4, 5, .operation (plainOp .cp [.reg 0, .reg 1]) [], none, some 0x1B⟩).words = [(5, 0x1B00001F)] ∧
    (encodeRecord .empty ⟨4, 5, .operation (plainOp .add [.reg 0, .reg 1, .const 300]) [], none, none⟩).errLog = [⟨.shape, 4, 5, .operand (.const 300)⟩] := by
  decide
/-- The host's transactions (60_exceptions.md R425). -/
theorem test_load_and_reset : let s := loadProgram (after (.ldRI 1 5 .always) State.reset) [0x01000000, 0x02000000] 0xFFFF
    s.im = [(0, 0x02000000), (0xFFFF, 0x01000000)] ∧ getR ((hardReset s).lane 0) 1 = 0 ∧ (hardReset s).im = s.im := by decide

/-- A grid of 16 by 8 that changes nothing; Quit; a load is refused after a step, until a hard reset, which keeps the
breakpoints (60_exceptions.md R426, R428). -/
theorem test_host :
    let h := (transact (Stepper.start .default) (.loadProgram [0x01000000] 0)).1
    let stepped := (runCommand (runCommand h (.breakSet 7)).1 .step).1
    stepped.machine.pc = 1 ∧ transact stepped (.loadProgram [] 0) = (stepped, .refused) ∧
    (transact (transact stepped .hardReset).1 (.loadProgram [] 0)).2 = .done ∧
    (transact stepped .hardReset).1.breakpoints = [7] ∧ (runCommand stepped (.memoryDump 0)).1 = stepped ∧
    (runCommand (runCommand stepped .quit).1 .step).2 = .refused := by decide
theorem test_grid_shape (h : Stepper) (a : Addr) : h.quit = false →
    (runCommand h (.memoryDump a)).2 = .grid (memoryGrid h.machine a) ∧
    (memoryGrid h.machine a).map List.length = List.replicate 16 8 := fun hq => ⟨by simp [runCommand, hq], rfl⟩

/-! ## Witnesses: for each obligation with hypotheses, states and operands that meet them, each clause of
its own at a boundary where it has a range -/

/-- Lanes 0 and 2 are selected by `EQ` in both the real and the combined bundle, lanes 1 and 3 are not. -/
def mixed : State :=
  let on : LaneState := { loaded.lane 0 with astatR := 1, astatC := 1 }
  { loaded with lanes := ⟨on, loaded.lane 0, on, loaded.lane 0⟩ }

/-- `mixed` with one instruction word at `PC` = 0. -/
def mixed1 (w : IWord) : State := { mixed with im := [(0, w)] }

/-- No data address above 0x0100 is implemented, delay slots are on, one is pending. -/
def narrow : State :=
  { mixed with params := { delaySlot := true, entry := 0, dmWords := 0x101, macTail := 3 }
               dsPending := true, dsTarget := 0x40 }

/-- A state on the boundary of the invariant: one data word, full stacks, one recorded error. -/
def full : State :=
  { State.reset with
    params := { Params.default with dmWords := 1 }
    lanes := Lanes.all { LaneState.reset with dm := [(0, 5)] }
    im := [(0, 0x1000022F), (65535, 0)]
    pcStk := List.replicate 8 1, lpStk := List.replicate 8 ⟨1, 2, 3, false⟩
    stsStk := List.replicate 8 (statusEntry State.reset), sstat := 0x37
    errCnt := 1, errLog := [⟨.addr, 0, .address 1⟩] }

theorem full_inv : full.Inv := by constructor <;> decide

theorem witness_DecodeOfEncode : (Instr.macLdLd .rnd 3 7 7 7 3 3 6 3 3 .always).wf = true ∧
    (Instr.stCPostI 30 7 0xFF .eq).wf = true := by decide
theorem witness_EncodeOfDecode : decode 0xD6CCDC64 = .ok (.masLdLd .rnd 2 6 3 1 2 3 4 1 2 .lt) := by decide
/-- Both clauses; a single word, and bundles of shape 0, 3 and another. -/
theorem witness_FormatTable : ((formatOf (.addRRR 0 1 2 .eq)).holds 0x1000022F = true ∧ fld 0x1000022F 31 1 = 0 ∧
    decode 0x1000022F = .ok (.addRRR 0 1 2 .always)) ∧
    (fld 0x9BFEEFF1 31 1 = 1 ∧ fld 0x9BFEEFF1 29 2 = 0 ∧ decode 0x9BFEEFF1 = .ok (.xorLd 31 30 29 7 3 3 .ne)) ∧
    (fld 0xD6CCDC64 31 1 = 1 ∧ fld 0xD6CCDC64 29 2 = 2) ∧
    (fld 0xF109525F 31 1 = 1 ∧ fld 0xF109525F 29 2 = 3 ∧ decode 0xF109525F = .ok (.lshiftSt 8 9 10 2 1 1 .always)) := by decide
/-- A record that encodes, one that is an error, one without a format and one with an unknown mnemonic. -/
theorem witness_EncoderEmitsOneWord : RecordBody.operation ⟨.nop, [], none, false⟩ [] ≠ .pseudoOp ∧
    RecordBody.unresolved ≠ .pseudoOp ∧
    (encodeRecord .empty ⟨1, 5, .operation ⟨.nop, [], none, false⟩ [], none, none⟩).words = [(5, 0x01000000)] ∧
    (encodeRecord .empty ⟨1, 5, .unresolved, none, none⟩).errCnt = 1 ∧
    formatsOf ⟨.nop, [.const 1], none, false⟩ [] = [] ∧
    (Operation.mk .unknown [] (some .rnd) true).mnemonic = .unknown := by decide
theorem witness_ResetValues : ∃ s r : State, r = hardReset s ∧ getR (s.lane 0) 6 = 0x123 ∧ getR (r.lane 0) 6 = 0 :=
  ⟨loaded, hardReset loaded, rfl, by decide, by decide⟩
theorem witness_InvariantAtReset : Params.legal { Params.default with dmWords := 1 } = true ∧
    Params.legal { Params.default with dmWords := 65536 } = true := by decide
theorem witness_StepKeepsInvariant : full.Inv ∧ step full = .next (stepState full) := ⟨full_inv, rfl⟩
theorem witness_StepAlwaysCompletes : { full with halted := true }.halted = true ∧
    (mixed.halted = false ∧ imWord mixed mixed.pc = none) := by decide
theorem witness_StepRunsDecodedInstruction : full.halted = false ∧ imWord full full.pc = some 0x1000022F ∧
    decode 0x1000022F = .ok (.addRRR 0 1 2 .always) := by decide
theorem witness_IllegalWordIsShapeError : (mixed1 0).halted = false ∧ imWord (mixed1 0) (mixed1 0).pc = some 0 ∧
    ∀ i, decode 0 ≠ .ok i := ⟨by decide, by decide, fun i h => by cases h⟩
/-- A taken transfer with and without delay slots, and the four positions at a loop end. -/
theorem witness_NextCodeCases : narrow.params.delaySlot = true ∧ mixed.params.delaySlot = false ∧
    (∀ f : Bool, ∀ n : BitVec 16, n = 0 ∨ n = 1 →
      { mixed with lpStk := [⟨1, 0, n, f⟩] }.lpStk = [⟨1, 0, n, f⟩] ∧ { mixed with lpStk := [⟨1, 0, n, f⟩] }.pc = 0) ∧
    (1 : BitVec 16) - 1 = 0 ∧ (0 : BitVec 16) - 1 ≠ 0 ∧
    (∀ e rest, mixed.lpStk = e :: rest → mixed.pc ≠ e.last) :=
  ⟨rfl, rfl, fun _ _ _ => ⟨rfl, rfl⟩, by decide, by decide, fun _ _ h => by cases h⟩
/-- In a loop whose body is one `NOP`, `k` cycles done and `c` passes to go. -/
def inLoop (c : BitVec 16) (k : Nat) : State :=
  { State.reset with im := [(1, 0x01000000)], pc := 1, cycles := k, lpStk := [⟨1, 1, c, false⟩] }
/-- Before pass `k` of that loop with count `n`, and after its last pass. -/
def looping (n : BitVec 16) (k : Nat) : State :=
  if k < loopTimes n then inLoop (n - BitVec.ofNat 16 k) k else { inLoop 0 k with pc := 2, lpStk := [] }
theorem inLoop_step (c : BitVec 16) (k : Nat) : step (inLoop c k) =
    .next (if c - 1#16 = 0#16 then { inLoop 0 (k + 1) with pc := 2, lpStk := [] } else inLoop (c - 1#16) (k + 1)) := by
  by_cases h : c - 1#16 = 0#16
  · rw [if_pos h, show step (inLoop c k) = .next (loopStep (inLoop c (k + 1))) from rfl]
    simp [loopStep, inLoop, h]
  · rw [if_neg h, show step (inLoop c k) = .next (loopStep (inLoop c (k + 1))) from rfl]
    simp [loopStep, inLoop, h]
theorem looping_pass (n : BitVec 16) (k : Nat) (hk : k < loopTimes n) : step (looping n k) = .next (looping n (k + 1)) := by
  have h1 : n - BitVec.ofNat 16 k - 1#16 = n - BitVec.ofNat 16 (k + 1) := by rw [BitVec.ofNat_add, BitVec.sub_sub]
  have h2 : n - BitVec.ofNat 16 (k + 1) = 0#16 ↔ ¬k + 1 < loopTimes n := by
    unfold loopTimes at *
    by_cases h0 : n = 0
    · rw [if_pos h0] at *; subst h0; bv_omega
    · rw [if_neg h0] at *; bv_omega
  rw [looping, looping, if_pos hk, inLoop_step]
  simp only [h1, h2, ite_not]
/-- A loop of `ADD`, `SUB` with count 2 and one loop below it, after `j` steps. -/
def looping2 : Nat → State
  | 0 => { State.reset with im := [(1, 0x1000022F), (2, 0x1207FDD4)], pc := 1, lpStk := [⟨1, 2, 2, false⟩, ⟨0, 9, 5, true⟩] }
  | j + 1 => stepState (looping2 j)
theorem looping2_steps : step (looping2 0) = .next (looping2 1) ∧ step (looping2 1) = .next (looping2 2) ∧
    step (looping2 2) = .next (looping2 3) ∧ step (looping2 3) = .next (looping2 4) := ⟨rfl, rfl, rfl, rfl⟩
/-- Every count, 0 and its 65536 passes among them, and a loop of two words. -/
theorem witness_LoopRunsCountTimes :
    (∀ n : BitVec 16, (looping n 0).lpStk = [⟨1, 1, n, false⟩] ∧
      ∀ k, k < loopTimes n → BodyPass 1 (looping n k) (looping n (k + 1))) ∧
    (looping2 0).lpStk = [⟨1, 2, 2, false⟩, ⟨0, 9, 5, true⟩] ∧
    ∀ k, k < loopTimes 2 → BodyPass 2 (looping2 (2 * k)) (looping2 (2 * (k + 1))) := by
  refine ⟨fun n => ⟨?_, fun k hk => ⟨0, fun _ => looping n k, rfl, fun j hj => absurd hj (by omega), ?_, looping_pass n k hk⟩⟩, rfl, ?_⟩
  · have : 0 < loopTimes n := by unfold loopTimes; split <;> bv_omega
    simp [looping, inLoop, this]
  · unfold looping; rw [if_pos hk]; exact ⟨rfl, rfl, rfl, rfl, 0x01000000, rfl, by decide⟩
  · obtain ⟨h0, h1, h2, h3⟩ := looping2_steps
    intro k hk
    obtain rfl | rfl : k = 0 ∨ k = 1 := by have : loopTimes 2 = 2 := rfl; omega
    · refine ⟨1, looping2, rfl, fun j hj => ?_, ⟨by decide, by decide, by decide, by decide, 0x1207FDD4, by decide, by decide⟩, h1⟩
      obtain rfl : j = 0 := by omega
      exact ⟨h0, by decide⟩
    · refine ⟨1, fun j => looping2 (j + 2), rfl, fun j hj => ?_, ⟨by decide, by decide, by decide, by decide, 0x1207FDD4, by decide, by decide⟩, h3⟩
      obtain rfl : j = 0 := by omega
      exact ⟨h2, by decide⟩
theorem witness_UnselectedLaneUnchanged : ∃ t, exec (.addRRR 0 1 2 .eq) mixed = .next t ∧
    laneSelected (.addRRR 0 1 2 .eq) mixed 1 = false ∧ laneSelected (.addC 0 2 4 .eq) mixed 3 = false :=
  ⟨_, rfl, by decide, by decide⟩
/-- Two states that differ in lanes 1 to 3. -/
theorem witness_LanesDoNotInterfere : ∃ u s' u', SameShared mixed u ∧ u.lane 0 = mixed.lane 0 ∧ u.lane 1 ≠ mixed.lane 1 ∧
    exec (.addRRR 6 6 7 .eq) mixed = .next s' ∧ exec (.addRRR 6 6 7 .eq) u = .next u' :=
  ⟨{ mixed with lanes := ⟨mixed.lane 0, LaneState.reset, LaneState.reset, LaneState.reset⟩ }, _, _,
    ⟨rfl, ⟨rfl, rfl, rfl, rfl⟩, ⟨rfl, rfl, rfl⟩, ⟨rfl, rfl⟩, rfl, rfl, rfl⟩, rfl, by decide, rfl, rfl⟩
theorem witness_ErrorsDiscardTheWord : ∃ t, step (mixed1 0x54000000) = .next t ∧ step (mixed1 0) = .next (stepState (mixed1 0)) ∧
    (stepState (mixed1 0)).errCnt ≠ (mixed1 0).errCnt := ⟨_, rfl, rfl, by decide⟩
theorem witness_ProgramMemoryNeverWritten : ∃ t, exec (.stAbs 6 0) (mixed1 0) = .next t := ⟨_, rfl⟩
/-- A bundle with every sticky bit set, and instructions that are none of the five that may clear one. -/
theorem witness_StickyBitsStay : ∃ t, exec (.addRRR 6 6 7 .always) (start [] [] 0xE00) = .next t ∧
    (∀ ctl rx c, Instr.addRRR 6 6 7 .always = .cpCR ctl rx c → ctl ≠ .astatR ∧ ctl ≠ .astatI ∧ ctl ≠ .astatC) ∧
    (∀ ctl imm, Instr.addRRR 6 6 7 .always = .ldCI ctl imm → ctl ≠ .astatR ∧ ctl ≠ .astatI ∧ ctl ≠ .astatC) ∧
    Instr.addRRR 6 6 7 .always ≠ .popSts ∧ Instr.addRRR 6 6 7 .always ≠ .reset ∧
    flagOf ((start [] [] 0xE00).lane 0).astatR .avs = true ∧ flagOf ((start [] [] 0xE00).lane 0).astatC .svs = true :=
  ⟨_, rfl, fun _ _ _ h => (by cases h), fun _ _ h => (by cases h), by decide, by decide, by decide, by decide⟩
/-- A load after a store (70_reset_and_hazards.md R461), a store, a multiply before a multiply and at the end of a
streak (R462). -/
theorem witness_CycleAccounting :
    (∃ t, exec (.ldAbs 2 0x100) { mixed with prevStore := true } = .next t ∧ t.errCnt = mixed.errCnt ∧
      loadFormat (formatOf (.ldAbs 2 0x100)).id = true ∧ t.cycles = 2 ∧ t.prevStore = false) ∧
    (∃ t, exec (.stAbs 2 0x100) mixed = .next t ∧ t.errCnt = mixed.errCnt ∧ t.cycles = 1 ∧ t.prevStore = true) ∧
    (∃ t, exec (.mpy .ss 0 6 7 .always) { mixed with im := [(1, 0x4109C64F)] } = .next t ∧ t.errCnt = mixed.errCnt ∧
      t.cycles = 1) ∧ MultiplyFollows { mixed with im := [(1, 0x4109C64F)] } ∧
    (∃ t, exec (.mpy .ss 0 6 7 .always) mixed = .next t ∧ t.errCnt = mixed.errCnt ∧ t.cycles = 2) ∧
    ¬MultiplyFollows mixed :=
  ⟨⟨_, rfl, by decide⟩, ⟨_, rfl, by decide⟩, ⟨_, rfl, by decide⟩, ⟨0x4109C64F, .mac .rnd 7 3 4 .always, by decide⟩,
    ⟨_, rfl, by decide⟩, fun ⟨_, _, h, _⟩ => by cases h⟩
/-- One `ADD` between `PUSH STS` and `POP STS`, and none, from a stack with seven entries. -/
theorem witness_StatusRoundTrip : ∃ (s t u : State) (run : Nat → State), s.stsStk.length = 7 ∧
    exec .pushSts s = .next t ∧ run 0 = t ∧ (∀ k, k < 1 → step (run k) = .next (run (k + 1))) ∧
    (∀ k, k ≤ 1 → s.stsStk.length + 1 ≤ (run k).stsStk.length) ∧
    (run 1).stsStk.length = s.stsStk.length + 1 ∧ exec .popSts (run 1) = .next u := by
  let s : State := { mixed1 0x03000000 with im := [(0, 0x03000000), (1, 0x1000022F)], stsStk := List.replicate 7 (statusEntry mixed) }
  refine ⟨s, after .pushSts s, after .popSts (stepState (after .pushSts s)),
    fun k => if k = 0 then after .pushSts s else stepState (after .pushSts s), by decide, rfl, rfl, ?_, ?_, by decide, rfl⟩
  · intro k hk; obtain rfl : k = 0 := by omega
    rfl
  · intro k hk; obtain rfl | rfl : k = 0 ∨ k = 1 := by omega
    all_goals decide

theorem witness_ShiftRule : (0 : Int) ≤ 0 ∧ (0 : Int) ≤ 12 ∧ (-1 : Int) < 0 ∧ (-12 : Int) < 0 := by decide
/-- Linear; at the limit, one past it; below the base; inside, on the base and on the last word. -/
theorem witness_NextIndexRule : (0 : Addr) = 0 ∧ (4 : Addr) ≠ 0 ∧ ((0x1000 : Addr).toNat : Int) + (4 : Addr).toNat ≤ (0x1003 : Addr).toNat + (1 : Addr).toInt ∧
    ((0x1000 : Addr).toNat + (0xFFFF : Addr).toInt < (0x1000 : Addr).toNat) ∧
    ((0x1000 : Addr).toNat : Int) ≤ (0x1001 : Addr).toNat + (0xFFFF : Addr).toInt ∧
    ((0x1002 : Addr).toNat + (1 : Addr).toInt < ((0x1000 : Addr).toNat : Int) + (4 : Addr).toNat) := by decide
/-- A buffer that ends at the top of the address space, the index on its last word, the modifiers `L` and `-L`. -/
theorem witness_CircularBufferStaysInside : ∀ mod : Addr, mod = 16 ∨ mod = 0xFFF0 →
    let s := { State.reset with i := State.reset.i.set 2 0xFFFF, l := State.reset.l.set 2 16, b := State.reset.b.set 2 0xFFF0 }
    (readG s .b 2).toNat ≤ (readG s .i 2).toNat ∧ (readG s .i 2).toNat < (readG s .b 2).toNat + (readG s .l 2).toNat ∧
    (readG s .b 2).toNat + (readG s .l 2).toNat ≤ 65536 ∧ mod.toInt ≤ (readG s .l 2).toNat ∧
    -((readG s .l 2).toNat : Int) ≤ mod.toInt := by
  rintro mod (rfl | rfl) <;> decide
theorem witness_EffectiveAddresses : mixed.mstat = 0 ∧ { mixed with mstat := 1 }.mstat = 1 ∧ 4 ≤ (4 : GIx).val ∧
    (3 : GIx).val < 4 ∧ 15 < 16 := by decide

/-- A selected and an unselected lane for a real-class instruction. -/
theorem witness_AluInstructions : condHolds .eq (mixed.lane 0).astatR = true ∧ condHolds .eq (mixed.lane 1).astatR = false := by decide
theorem witness_UnaryAluInstructions : condHolds .ne (mixed.lane 1).astatR = true ∧ condHolds .ne (mixed.lane 0).astatR = false := by decide
theorem witness_ComplexAluInstructions : (Instr.addC 30 0 2 .eq).wf = true ∧ (Instr.subC 30 0 2 .eq).wf = true ∧
    (Instr.conjC 30 0 .eq).wf = true ∧ condHolds .eq (mixed.lane 0).astatC = true ∧ condHolds .eq (mixed.lane 1).astatC = false := by decide
theorem witness_ComplexConversions : (Instr.polarC 30 0 .eq).wf = true ∧ (Instr.rectC 30 0 .eq).wf = true ∧
    condHolds .eq (mixed.lane 0).astatC = true ∧ condHolds .eq (mixed.lane 1).astatC = false := by decide
theorem witness_RealMultiply : condHolds .eq (mixed.lane 2).astatR = true ∧ condHolds .eq (mixed.lane 3).astatR = false := by decide
theorem witness_ComplexMultiply : (complexMac .mac true .rnd 6 30 0 .eq).wf = true ∧
    condHolds .eq (mixed.lane 2).astatC = true ∧ condHolds .eq (mixed.lane 3).astatC = false := by decide
theorem witness_ShiftInstructions : condHolds .eq (mixed.lane 0).astatR = true ∧ condHolds .eq (mixed.lane 3).astatR = false := by decide
theorem witness_DivideSteps : (∃ f, f = Config.divs ∧ Instr.divsRRR 1 2 3 .eq = .divsRRR 1 2 3 .eq) ∧
    (∃ f, f = Config.divq ∧ Instr.divqRRR 1 2 3 .eq = .divqRRR 1 2 3 .eq) ∧
    condHolds .eq (mixed.lane 0).astatR = true ∧ condHolds .eq (mixed.lane 1).astatR = false :=
  ⟨⟨_, rfl, rfl⟩, ⟨_, rfl, rfl⟩, by decide, by decide⟩
theorem witness_MovesIntoRegisters : (∃ value : State → LaneId → DWord, ∃ k,
      Instr.cpRC 1 .dpid .eq = .cpRC 1 k .eq ∧ value = fun s n => readCtl s n k) ∧
    condHolds .eq (mixed.lane 0).astatR = true ∧ condHolds .eq (mixed.lane 1).astatR = false :=
  ⟨⟨_, _, rfl, rfl⟩, by decide, by decide⟩
theorem witness_ComplexMove : (Instr.cpC 30 0 .eq).wf = true ∧ condHolds .eq (mixed.lane 0).astatC = true ∧
    condHolds .eq (mixed.lane 1).astatC = false := by decide
theorem witness_MovesIntoAccumulators : (∃ value : LaneState → AccWord, ∃ k, Instr.cpAA 7 0 .eq = .cpAA 7 k .eq ∧
      value = fun ln => getAcc ln k) ∧
    condHolds .eq (mixed.lane 0).astatR = true ∧ condHolds .eq (mixed.lane 1).astatR = false :=
  ⟨⟨_, _, rfl, rfl⟩, by decide, by decide⟩
/-- No active lane; the lowest active lane is 0, and, with `NE`, 1. -/
theorem witness_AddressRegisterWrites : (∀ n, condHolds .mv (mixed.lane n).astatR = false) ∧
    (condHolds .eq (mixed.lane 0).astatR = true ∧ ∀ m : LaneId, m < 0 → condHolds .eq (mixed.lane m).astatR = false) ∧
    (condHolds .ne (mixed.lane 1).astatR = true ∧ ∀ m : LaneId, m < 1 → condHolds .ne (mixed.lane m).astatR = false) := by decide
theorem witness_SharedControlWrites : (∀ n, condHolds .mv (mixed.lane n).astatR = false) ∧
    (condHolds .ne (mixed.lane 1).astatR = true ∧ ∀ m : LaneId, m < 1 → condHolds .ne (mixed.lane m).astatR = false) := by decide
theorem witness_FlagBundleWrites : (∃ active value, (∃ rx c, Instr.cpCR .astatI 6 .eq = .cpCR .astatI rx c ∧
      active = (fun n => condHolds c (mixed.lane n).astatR) ∧ value = (fun n => getR (mixed.lane n) rx)) ∧
      active (0 : LaneId) = true ∧ active 1 = false) ∧
    (∃ active value, (∃ imm, Instr.ldCI .astatC 0xF801 = .ldCI .astatC imm ∧ active = (fun _ : LaneId => true) ∧
      value = (fun _ : LaneId => imm.extractLsb' 0 12)) ∧ active 3 = true) :=
  ⟨⟨_, _, ⟨_, _, rfl, rfl, rfl⟩, by decide, by decide⟩, ⟨_, _, ⟨_, rfl, rfl, rfl⟩, rfl⟩⟩

/-- The last implemented address of a single access and the last pair of a complex access. -/
theorem witness_Loads : AddressOk narrow false (effAddr narrow (.abs 0x100)) ∧ AddressOk mixed true (effAddr mixed (.preI 1 0)) ∧
    AddressOk mixed true (effAddr mixed (.abs 0xFFFE)) ∧ (memInstr .ldC (.preI 1 0) 30 .eq).wf = true ∧
    laneSelected (memInstr .ldC (.preI 1 0) 30 .eq) mixed 0 = true ∧
    laneSelected (memInstr .ldC (.preI 1 0) 30 .eq) mixed 1 = false := by
  unfold AddressOk; decide
theorem witness_Stores : AddressOk narrow false (effAddr narrow (.abs 0x100)) ∧ AddressOk mixed true (effAddr mixed (.postM 1 2)) ∧
    (memInstr .stC (.postM 1 2) 30 .eq).wf = true ∧ (memInstr .st (.abs 0x100) 31 .eq).wf = true ∧
    laneSelected (memInstr .stC (.postM 1 2) 30 .eq) mixed 0 = true ∧
    laneSelected (memInstr .stC (.postM 1 2) 30 .eq) mixed 1 = false := by
  unfold AddressOk; decide
/-- The first unimplemented address; an odd pair; a pair whose second word is not implemented; the three structural
checks, the static slot behind a `JUMP`. -/
theorem witness_SingleWordErrors : ¬AddressOk narrow false (effAddr narrow (.abs 0x101)) ∧
    ¬AddressOk mixed true (effAddr mixed (.abs 0x101)) ∧ ¬AddressOk narrow true (effAddr narrow (.abs 0x100)) ∧
    ¬TransferOk { narrow with pc := 1, im := [(0, 0x0800005F)] } ∧
    ¬TransferOk { mixed with lpStk := [⟨1, 0, 1, false⟩] } ∧ ¬TransferOk { narrow with lpStk := [⟨1, 1, 1, false⟩] } ∧
    ¬LoopOk { narrow with pc := 1, im := [(0, 0x0800005F)] } ∧ ¬LoopOk { mixed with lpStk := [⟨1, 0, 1, false⟩] } := by
  refine ⟨?_, ?_, ?_, ?_, ?_, ?_, ?_, ?_⟩
  · unfold AddressOk; decide
  · unfold AddressOk; decide
  · unfold AddressOk; decide
  · rw [← transferCheck_true]; decide
  · rw [← transferCheck_true]; decide
  · rw [← transferCheck_true]; decide
  · rw [← transferCheck_false]; decide
  · rw [← transferCheck_false]; decide

/-- With and without delay slots and a pending one; the loop end just out of reach of the slot. -/
theorem transfer_states : TransferOk mixed ∧ TransferOk { narrow with dsPending := false, lpStk := [⟨1, 2, 1, false⟩] } ∧
    TransferOk narrow ∧ LoopOk { narrow with dsPending := false, lpStk := [⟨1, 1, 1, false⟩] } := by
  refine ⟨?_, ?_, ?_, ?_⟩
  · rw [← transferCheck_true]; decide
  · rw [← transferCheck_true]; decide
  · rw [← transferCheck_true]; decide
  · rw [← transferCheck_false]; decide
theorem witness_Jumps : (TransferOk mixed ∧ TransferOk narrow) ∧ condHolds .eq (mixed.lane 0).astatR = true ∧
    (∀ n, condHolds .mv (mixed.lane n).astatR = false) := ⟨⟨transfer_states.1, transfer_states.2.2.1⟩, by decide⟩
/-- The return-address stack one below full, and full. -/
theorem witness_Calls : (TransferOk { mixed with pcStk := List.replicate 7 1 } ∧ TransferOk { mixed with pcStk := List.replicate 8 1 }) ∧
    condHolds .eq (mixed.lane 0).astatR = true ∧ (∀ n, condHolds .mv (mixed.lane n).astatR = false) ∧
    { mixed with pcStk := List.replicate 7 1 }.pcStk.length < 8 ∧ 8 ≤ { mixed with pcStk := List.replicate 8 1 }.pcStk.length := by
  refine ⟨⟨?_, ?_⟩, by decide⟩
  · rw [← transferCheck_true]; decide
  · rw [← transferCheck_true]; decide
theorem witness_Returns : (TransferOk mixed ∧ TransferOk { mixed with pcStk := [7] }) ∧ mixed.pcStk = [] ∧
    { mixed with pcStk := [7] }.pcStk = 7 :: [] ∧ condHolds .eq (mixed.lane 0).astatR = true ∧
    (∀ n, condHolds .mv (mixed.lane n).astatR = false) := by
  refine ⟨⟨transfer_states.1, ?_⟩, by decide⟩
  rw [← transferCheck_true]; decide
theorem witness_LoopSetUp : (LoopOk { mixed with lpStk := List.replicate 7 ⟨1, 2, 3, true⟩ } ∧
    LoopOk { mixed with lpStk := List.replicate 8 ⟨1, 2, 3, true⟩ }) ∧
    { mixed with lpStk := List.replicate 7 ⟨1, 2, 3, true⟩ }.lpStk.length < 8 ∧
    8 ≤ { mixed with lpStk := List.replicate 8 ⟨1, 2, 3, true⟩ }.lpStk.length := by
  refine ⟨⟨?_, ?_⟩, by decide⟩
  · rw [← transferCheck_false]; decide
  · rw [← transferCheck_false]; decide
/-- The ways of `FallsThrough` and `Redirects`, which occur in many statements: a pending slot, no loop end, a forever
loop, a loop that repeats and one that ends. -/
theorem witness_flow : narrow.dsPending = true ∧ mixed.dsPending = false ∧ (∀ e rest, mixed.lpStk = e :: rest → mixed.pc ≠ e.last) ∧
    (∃ e, { mixed with lpStk := [⟨1, 0, 5, true⟩] }.lpStk = e :: [] ∧ mixed.pc = e.last ∧ e.forever = true) ∧
    (∃ e, { mixed with lpStk := [⟨1, 0, 2, false⟩] }.lpStk = e :: [] ∧ mixed.pc = e.last ∧ e.forever = false ∧ e.count ≠ 1) ∧
    (∃ e, { mixed with lpStk := [⟨1, 0, 1, false⟩] }.lpStk = e :: [] ∧ mixed.pc = e.last ∧ e.forever = false ∧ e.count = 1) :=
  ⟨rfl, rfl, fun _ _ h => (by cases h), ⟨_, rfl, by decide⟩, ⟨_, rfl, by decide⟩, ⟨_, rfl, by decide⟩⟩

/-- Status stacks one below full, full, empty, with one entry. -/
theorem witness_StatusPushPop : { mixed with stsStk := List.replicate 7 (statusEntry mixed) }.stsStk.length < 8 ∧
    8 ≤ { mixed with stsStk := List.replicate 8 (statusEntry mixed) }.stsStk.length ∧ mixed.stsStk = [] ∧
    { mixed with stsStk := [statusEntry mixed] }.stsStk = statusEntry mixed :: [] := by decide

theorem witness_AluLoadBundles : (7 : Reg) ≠ reg8 5 ∧ AddressOk narrow false (effAddr narrow (lowMode 1 2)) ∧
    condHolds .eq (narrow.lane 0).astatR = true ∧ condHolds .eq (narrow.lane 1).astatR = false := by
  unfold AddressOk; decide
theorem witness_MacLoadBundles : AddressOk narrow false (effAddr narrow (lowMode 1 2)) ∧
    condHolds .eq (narrow.lane 0).astatR = true ∧ condHolds .eq (narrow.lane 1).astatR = false := by
  unfold AddressOk; decide
theorem witness_MacLoadLoadBundles : (2 : Reg8) ≠ 5 ∧ AddressOk narrow false (effAddr narrow (lowMode 1 2)) ∧
    AddressOk narrow false (effAddr narrow (highMode 0 0)) ∧
    condHolds .eq (narrow.lane 0).astatR = true ∧ condHolds .eq (narrow.lane 1).astatR = false := by
  unfold AddressOk; decide
theorem witness_ShiftStoreBundles : AddressOk narrow false (effAddr narrow (lowMode 1 2)) ∧
    condHolds .eq (narrow.lane 0).astatR = true ∧ condHolds .eq (narrow.lane 1).astatR = false := by
  unfold AddressOk; decide
/-- Identical destinations; different ones with the first unimplemented address in either slot. -/
theorem witness_BundleErrors : (5 : Reg) = reg8 5 ∧ (4 : Reg) ≠ reg8 5 ∧ (5 : Reg8) ≠ 4 ∧
    ¬AddressOk { narrow with i := State.reset.i.set 1 0x101 } false (effAddr { narrow with i := State.reset.i.set 1 0x101 } (lowMode 1 2)) ∧
    ¬AddressOk { narrow with i := State.reset.i.set 5 0x101 } false (effAddr { narrow with i := State.reset.i.set 5 0x101 } (highMode 1 2)) := by
  unfold AddressOk; decide

end Sys2Proof.Tests
end

section
/-! PROOFS. The views of an accumulator (spec/10_state.md R25). -/

namespace Sys2Proof.Machine

/-! ## Reading a view -/

/-- H is the one view narrower than a data word: its 8 bits are sign-extended. -/
@[simp] theorem readView_h (a : AccWord) :
    readView .h a = (a.extractLsb' 24 8).signExtend 12 := rfl
@[simp] theorem readView_m (a : AccWord) : readView .m a = a.extractLsb' 12 12 := rfl
@[simp] theorem readView_l (a : AccWord) : readView .l a = a.extractLsb' 0 12 := rfl

/-! ## Writing a view, bit by bit

A written accumulator is a concatenation; `BitVec.getLsbD_append` says which part holds bit `k`, and the
cases follow the bounds of the parts. -/

/-- Only the low 8 bits of the data word reach H. -/
theorem getLsbD_writeView_h (a : AccWord) (x : DWord) (k : Nat) :
    (writeView .h a x).getLsbD k = if 24 ≤ k ∧ k < 32 then x.getLsbD (k - 24) else a.getLsbD k := by
  simp only [writeView, BitVec.getLsbD_append, BitVec.getLsbD_extractLsb', Nat.zero_add]
  by_cases below : k < 24
  · simp [below, Nat.not_le.mpr below]
  · by_cases inside : k < 32
    · have offset : k - 24 < 8 := by omega
      simp [below, inside, offset, Nat.le_of_not_lt below]
    · have offset : ¬k - 24 < 8 := by omega
      simp [below, inside, offset, BitVec.getLsbD_of_ge a k (Nat.le_of_not_lt inside)]

/-- The middle of the three parts: L stays below it, H above it. -/
theorem getLsbD_writeView_m (a : AccWord) (x : DWord) (k : Nat) :
    (writeView .m a x).getLsbD k = if 12 ≤ k ∧ k < 24 then x.getLsbD (k - 12) else a.getLsbD k := by
  simp only [writeView, BitVec.getLsbD_append, BitVec.getLsbD_extractLsb', Nat.zero_add]
  by_cases below : k < 12
  · simp [below, Nat.not_le.mpr below]
  · by_cases inside : k < 24
    · have offset : k - 12 < 12 := by omega
      simp [below, inside, offset, Nat.le_of_not_lt below]
    · have offset : ¬k - 12 < 12 := by omega
      have position : 24 + (k - 12 - 12) = k := by omega
      by_cases width : k < 32
      · have high : k - 12 - 12 < 8 := by omega
        simp [below, inside, offset, position, high]
      · simp [below, inside, offset, position, BitVec.getLsbD_of_ge a k (Nat.le_of_not_lt width)]

theorem getLsbD_writeView_l (a : AccWord) (x : DWord) (k : Nat) :
    (writeView .l a x).getLsbD k = if k < 12 then x.getLsbD k else a.getLsbD k := by
  simp only [writeView, BitVec.getLsbD_append, BitVec.getLsbD_extractLsb']
  by_cases inside : k < 12
  · simp [inside]
  · have position : 12 + (k - 12) = k := by omega
    by_cases width : k < 32
    · have offset : k - 12 < 20 := by omega
      simp [inside, position, offset]
    · simp [inside, position, BitVec.getLsbD_of_ge a k (Nat.le_of_not_lt width)]

/-- Settles O27: what a read of each view is, then the bits of a write to each view. -/
theorem accumulatorViews : Obligations.AccumulatorViews := fun a x =>
  ⟨readView_h a, readView_m a, readView_l a,
    getLsbD_writeView_h a x, getLsbD_writeView_m a x, getLsbD_writeView_l a x⟩

end Sys2Proof.Machine
end

section
/-! PROOFS. The adder and the subtracter (spec/40_alu.md R182). -/

namespace Sys2Proof.Machine

/-! ## The adder -/

/-- The low 12 bits of the 13-bit sum. -/
theorem toNat_add12_r (x y : DWord) (c : Bool) :
    (add12 x y c).r.toNat = (x.toNat + y.toNat + c.toNat) % 2 ^ 12 :=
  BitVec.toNat_ofNat _ _

/-- Two 12-bit operands and a carry stay below 2^13, so bit 12 is the whole quotient. -/
theorem add12_carry_iff (x y : DWord) (c : Bool) :
    (add12 x y c).carry = true ↔ (x.toNat + y.toNat + c.toNat) / 2 ^ 12 = 1 := by
  have hx := x.isLt
  have hy := y.isLt
  have hc := c.toNat_le
  simp only [add12, decide_eq_true_eq]
  omega

/-- The operands have one sign and the result has the other. -/
theorem add12_overflow_iff (x y : DWord) (c : Bool) :
    (add12 x y c).overflow = true ↔
      x.getLsbD 11 = y.getLsbD 11 ∧ (add12 x y c).r.getLsbD 11 ≠ x.getLsbD 11 := by
  simp [add12, BitVec.msb_eq_getLsbD_last]

/-! ## The subtracter -/

/-- The subtracter takes its result from the adder, with the second operand complemented. -/
theorem sub12_r (x y : DWord) (c : Bool) : (sub12 x y c).r = (add12 x (~~~y) c).r := rfl

/-- The subtracter takes its carry from the adder, with the second operand complemented. -/
theorem sub12_carry (x y : DWord) (c : Bool) :
    (sub12 x y c).carry = (add12 x (~~~y) c).carry := rfl

/-- The signs compared are those of `x` and `y`, not of the complement that is added. -/
theorem sub12_overflow_iff (x y : DWord) (c : Bool) :
    (sub12 x y c).overflow = true ↔
      x.getLsbD 11 ≠ y.getLsbD 11 ∧ (sub12 x y c).r.getLsbD 11 ≠ x.getLsbD 11 := by
  simp [sub12, BitVec.msb_eq_getLsbD_last]

/-- With carry in 1 the complement becomes the two's complement. -/
theorem sub12_true_r (x y : DWord) : (sub12 x y true).r = x - y :=
  aluCompute_r .sub x y true

/-- With carry in 1 the sum is `2^12 + x - y`, which has bit 12 exactly when nothing is borrowed. -/
theorem sub12_true_carry_iff (x y : DWord) :
    (sub12 x y true).carry = true ↔ y.toNat ≤ x.toNat := by
  have hx := x.isLt
  have hy := y.isLt
  rw [sub12_carry, add12_carry_iff, BitVec.toNat_not, Bool.toNat_true]
  omega

/-- Settles O23: the three outputs of the adder, those of the subtracter, then the carry-in-1 reading. -/
theorem adderRule : Obligations.AdderRule := fun x y c =>
  ⟨toNat_add12_r x y c, add12_carry_iff x y c, add12_overflow_iff x y c,
    sub12_r x y c, sub12_carry x y c, sub12_overflow_iff x y c,
    sub12_true_r x y, sub12_true_carry_iff x y⟩

end Sys2Proof.Machine
end

section
/-! PROOFS. Accumulate, round, saturate and `MV` (spec/42_mac.md R233). -/

namespace Sys2Proof.Machine

/-! ## The exact result -/

/-- Rounding is one addition after the accumulation, the same for every kind. -/
theorem macExact_round (kind : MacKind) (acc : AccWord) (p : Int) (rnd : Bool) :
    macExact kind acc p rnd = macExact kind acc p false + if rnd then 0x800 else 0 := by
  cases rnd with
  | false => exact (Int.add_zero _).symm
  | true => rfl

/-- The old accumulator is not read. -/
theorem macExact_mpy (acc : AccWord) (p : Int) (rnd : Bool) :
    macExact .mpy acc p rnd = p + if rnd then 0x800 else 0 :=
  macExact_round .mpy acc p rnd

theorem macExact_mac (acc : AccWord) (p : Int) (rnd : Bool) :
    macExact .mac acc p rnd = acc.toInt + p + if rnd then 0x800 else 0 :=
  macExact_round .mac acc p rnd

theorem macExact_mas (acc : AccWord) (p : Int) (rnd : Bool) :
    macExact .mas acc p rnd = acc.toInt - p + if rnd then 0x800 else 0 :=
  macExact_round .mas acc p rnd

/-! ## Saturation and `MV` -/

theorem toInt_saturate32 (n : Int) :
    (saturate32 n).toInt =
      if n > 2 ^ 31 - 1 then 2 ^ 31 - 1 else if n < -2 ^ 31 then -2 ^ 31 else n := by
  have clamped : (saturate32 n).toInt = max (-2147483648) (min 2147483647 n) := saturate32_spec n
  omega

theorem macMv_iff (n : Int) : macMv n = true ↔ n < -2 ^ 23 ∨ n > 2 ^ 23 - 1 := by
  simp only [macMv, Bool.or_eq_true, decide_eq_true_eq]

/-! ## `MV` as a property of the accumulator written

The `M:L` part of an accumulator, sign-extended back to 32 bits, is its balanced remainder modulo 2^24;
it gives the accumulator back exactly for the values of 24 signed bits. Saturation to 32 bits does not
move a result into that range or out of it. -/

theorem toInt_signExtend_low24 (a : AccWord) :
    ((a.extractLsb' 0 24).signExtend 32).toInt = a.toInt.bmod (2 ^ 24) := by
  rw [BitVec.toInt_signExtend_of_le (by decide), BitVec.toInt_extractLsb', Nat.shiftRight_zero,
    BitVec.toInt_eq_toNat_bmod, Int.bmod_bmod_of_dvd (by decide)]

theorem eq_signExtend_low24_iff (a : AccWord) :
    a = (a.extractLsb' 0 24).signExtend 32 ↔ -2 ^ 23 ≤ a.toInt ∧ a.toInt ≤ 2 ^ 23 - 1 := by
  rw [← BitVec.toInt_inj, toInt_signExtend_low24, Int.bmod_def]
  omega

theorem macMv_iff_ne_signExtend_low24 (n : Int) :
    macMv n = true ↔ saturate32 n ≠ ((saturate32 n).extractLsb' 0 24).signExtend 32 := by
  rw [macMv_iff, ne_eq, eq_signExtend_low24_iff, toInt_saturate32]
  omega

/-- Settles O25: the exact result by the kind of accumulation, then `MV`, the saturated value and the
reading of `MV` on it. -/
theorem accumulateRule : Obligations.AccumulateRule := by
  intro kind acc p rnd n
  refine ⟨?_, macMv_iff n, toInt_saturate32 n, macMv_iff_ne_signExtend_low24 n⟩
  cases kind with
  | mpy => exact macExact_mpy acc p rnd
  | mac => exact macExact_mac acc p rnd
  | mas => exact macExact_mas acc p rnd

end Sys2Proof.Machine
end

section
/-! PROOFS. Shift amount and clamp, shifted value, `SS` and `SV` (spec/43_shift_divide.md R251, R252). -/

namespace Sys2Proof.Machine

/-! ## The flags

`SS` is the sign bit of the operand, whatever the kind and the amount. -/

/-- The flags of `shiftCompute_flags`, with the sign bit by its number. -/
theorem shiftCompute_flags_bit11 (kind : ShiftKind) (x : DWord) (n : Int) :
    (shiftCompute kind x n).flags = [(.ss, x.getLsbD 11), (.sv, shiftOverflow kind x n)] := by
  rw [shiftCompute_flags, BitVec.msb_eq_getLsbD_last]

/-- A right shift sets no `SV`. -/
theorem shiftOverflow_of_neg (kind : ShiftKind) (x : DWord) {n : Int} (right : n < 0) :
    shiftOverflow kind x n = false := by
  simp [shiftOverflow, right]

theorem shiftCompute_flags_of_neg (kind : ShiftKind) (x : DWord) {n : Int} (right : n < 0) :
    (shiftCompute kind x n).flags = [(.ss, x.getLsbD 11), (.sv, false)] := by
  rw [shiftCompute_flags_bit11, shiftOverflow_of_neg kind x right]

/-- A 12-bit truncation keeps the signed value exactly when the value is in the 12-bit range. -/
theorem overflows12_eq_toInt_ofInt_ne (full : Int) :
    overflows12 full = decide ((BitVec.ofInt 12 full).toInt ≠ full) := by
  simp only [overflows12, decide_eq_decide, BitVec.toInt_ofInt, Int.bmod_def]
  omega

/-! ## Left shifts -/

theorem shiftCompute_arith_r_of_nonneg (x : DWord) {n : Int} (left : 0 ≤ n) :
    (shiftCompute .arith x n).r = BitVec.ofInt 12 (x.toInt * 2 ^ n.toNat) := by
  simp only [shiftCompute, if_pos left, trunc]

/-- `SV` of `ASHIFT`: the result read back is not the exact product. -/
theorem shiftCompute_arith_flags_of_nonneg (x : DWord) {n : Int} (left : 0 ≤ n) :
    (shiftCompute .arith x n).flags =
      [(.ss, x.getLsbD 11),
        (.sv, decide ((shiftCompute .arith x n).r.toInt ≠ x.toInt * 2 ^ n.toNat))] := by
  rw [shiftCompute_flags_bit11, shiftCompute_arith_r_of_nonneg x left,
    ← overflows12_eq_toInt_ofInt_ne, shiftOverflow, decide_eq_true left, Bool.true_and]

theorem toNat_shiftCompute_logic_r_of_nonneg (x : DWord) {n : Int} (left : 0 ≤ n) :
    (shiftCompute .logic x n).r.toNat = x.toNat * 2 ^ n.toNat % 2 ^ 12 := by
  rw [shiftCompute_r, shiftValue, if_pos left, BitVec.toNat_shiftLeft, Nat.shiftLeft_eq]

/-- `SV` of `LSHIFT`: a 1 bit left the word at the top. -/
theorem shiftCompute_logic_flags_of_nonneg (x : DWord) {n : Int} (left : 0 ≤ n) :
    (shiftCompute .logic x n).flags =
      [(.ss, x.getLsbD 11), (.sv, decide (2 ^ 12 ≤ x.toNat * 2 ^ n.toNat))] := by
  rw [shiftCompute_flags_bit11, shiftOverflow, decide_eq_true left, Bool.true_and]
  rfl

/-! ## Right shifts

Shifting `-n` places right is division by `2 ^ (-n)`, rounded down: of the signed value for `ASHIFT`, of
the unsigned value for `LSHIFT`. -/

theorem toInt_shiftCompute_arith_r_of_neg (x : DWord) {n : Int} (right : n < 0) :
    (shiftCompute .arith x n).r.toInt = x.toInt / 2 ^ (-n).toNat := by
  rw [shiftCompute_r, shiftValue, if_neg (Int.not_le.mpr right)]
  rw [BitVec.toInt_sshiftRight, Int.shiftRight_eq_div_pow]
  push_cast
  rfl

theorem toNat_shiftCompute_logic_r_of_neg (x : DWord) {n : Int} (right : n < 0) :
    (shiftCompute .logic x n).r.toNat = x.toNat / 2 ^ (-n).toNat := by
  rw [shiftCompute_r, shiftValue, if_neg (Int.not_le.mpr right)]
  rw [BitVec.toNat_ushiftRight, Nat.shiftRight_eq_div_pow]

/-- Settles O26: the clamped amount of both forms, then the values and flags of left shifts (0 included)
and those of right shifts. -/
theorem shiftRule : Obligations.ShiftRule := by
  refine ⟨fun ln ry b => ⟨rfl, rfl⟩, fun x n left => ?_, fun x n right => ?_⟩
  · exact ⟨shiftCompute_arith_r_of_nonneg x left, shiftCompute_arith_flags_of_nonneg x left,
      toNat_shiftCompute_logic_r_of_nonneg x left, shiftCompute_logic_flags_of_nonneg x left⟩
  · exact ⟨toInt_shiftCompute_arith_r_of_neg x right, shiftCompute_flags_of_neg .arith x right,
      toNat_shiftCompute_logic_r_of_neg x right, shiftCompute_flags_of_neg .logic x right⟩

end Sys2Proof.Machine
end

section
/-! PROOFS. `NOP` and `RESET`: what each writes, its one cycle and where it goes
(spec/46_system.md R362, R365). -/

namespace Sys2Proof.Machine

/-! ## Words of no hazard class -/

/-- Only loads and multiplies wait (70_reset_and_hazards.md R461, R462). -/
@[simp] theorem latencyAdded_plainWord (s : State) : latencyAdded plainWord s = 0 := rfl

/-- Cycles and `prev_store` of a completed word that is no load, store or multiply. -/
theorem retire_plainWord_tally (s t : State) (g : Option Addr) :
    (retire plainWord s (.wrote t g)).cycles = t.cycles + 1 ∧
      (retire plainWord s (.wrote t g)).prevStore = false :=
  retire_wrote_tally plainWord s t g

/-- A word that writes nothing changes nothing shared but the sequencing. -/
theorem retire_wrote_self_onlyLanes (k : WordClass) (s : State) :
    OnlyLanes s (retire k s (.wrote s none)) where
  address := retire_wrote_address k s s none
  control := retire_wrote_control k s s none
  stk := retire_wrote_stacks k s s none
  machine := retire_wrote_machine k s s none
  errors := retire_wrote_errors k s s none
  flow := retire_wrote_flow k s s rfl rfl rfl

/-! ## NOP -/

/-- Opcode 0 is not assigned, so the zero word is no instruction (30_encoding.md R165). -/
theorem decode_zero : decode 0x00000000 = .error .unassignedOpcode := by decide

theorem decode_zero_ne_ok (i : Instr) : decode 0x00000000 ≠ .ok i := by
  rw [decode_zero]
  exact nofun

theorem exec_nop (s : State) :
    exec .nop s = .next (retire plainWord s (.wrote s none)) := exec_eq .nop s

/-- Settles O53: the two words by evaluation, the step as the end of a word that wrote nothing. -/
theorem noOperation : Obligations.NoOperation := by
  refine ⟨by decide, decode_zero_ne_ok, fun s => ⟨_, exec_nop s, ?_⟩⟩
  obtain ⟨cycles, prev⟩ := retire_plainWord_tally s s none
  exact ⟨retire_wrote_lane plainWord s s none, retire_wrote_self_onlyLanes plainWord s, cycles, prev⟩

/-! ## What RESET writes -/

@[simp] theorem softReset_mstat (s : State) : (softReset s).mstat = 0 := rfl
@[simp] theorem softReset_sstat (s : State) : (softReset s).sstat = 0 := rfl
@[simp] theorem softReset_pcStk (s : State) : (softReset s).pcStk = [] := rfl
@[simp] theorem softReset_lpStk (s : State) : (softReset s).lpStk = [] := rfl
@[simp] theorem softReset_stsStk (s : State) : (softReset s).stsStk = [] := rfl

/-- Every lane loses its three flag bundles and nothing else. -/
@[simp] theorem lane_softReset (s : State) (n : LaneId) :
    (softReset s).lane n = withBundles (s.lane n) ⟨0, 0, 0⟩ := Lanes.get_ofFn _ n

/-! ## Sequencing with no loop active -/

/-- On an empty loop stack cases 3 and 4 of R341 are one: the next address. -/
theorem FallsThrough.pc_of_no_loop {s t : State} (flow : FallsThrough [] s t) :
    t.pc = if s.dsPending then s.dsTarget else s.pc + 1 := by
  cases pending : s.dsPending with
  | true => exact (flow.slot pending).1
  | false => exact (flow.next pending (fun e rest h => nomatch h)).1

theorem FallsThrough.lpStk_of_no_loop {s t : State} (flow : FallsThrough [] s t) :
    t.lpStk = [] := by
  cases pending : s.dsPending with
  | true => exact (flow.slot pending).2
  | false => exact (flow.next pending (fun e rest h => nomatch h)).2

/-! ## RESET -/

theorem exec_reset (s : State) :
    exec .reset s = .next (retire plainWord s (.wrote (softReset s) none)) := exec_eq .reset s

/-- The lanes at the end of a `RESET`. -/
theorem lane_retire_softReset (k : WordClass) (s : State) (g : Option Addr) (n : LaneId) :
    (retire k s (.wrote (softReset s) g)).lane n = withBundles (s.lane n) ⟨0, 0, 0⟩ := by
  rw [retire_wrote_lane, lane_softReset]

/-- Settles O55: the step retires `softReset s`, which has no loop; each part is what `softReset`
writes or keeps, carried over by the part of the state that retirement keeps. -/
theorem softReset_holds : Obligations.SoftReset := by
  refine ⟨by decide, fun s => ⟨_, exec_reset s, ?_⟩⟩
  obtain ⟨cycles, prev⟩ := retire_plainWord_tally s (softReset s) none
  have lanes := lane_retire_softReset plainWord s none
  have address := retire_wrote_address plainWord s (softReset s) none
  have control := retire_wrote_control plainWord s (softReset s) none
  have saved := retire_wrote_stacks plainWord s (softReset s) none
  have machine := retire_wrote_machine plainWord s (softReset s) none
  have errors := retire_wrote_errors plainWord s (softReset s) none
  have flow : FallsThrough [] s (retire plainWord s (.wrote (softReset s) none)) :=
    retire_wrote_flow plainWord s (softReset s) rfl rfl rfl
  exact ⟨control.mstat, control.sstat, saved.pcStk, flow.lpStk_of_no_loop, saved.stsStk,
    fun n => by simp [lanes n],
    fun n => getR_congr (by simp [lanes n]),
    fun n => getAcc_congr (by simp [lanes n]),
    fun n a => by simp [dataWord, lanes n],
    ⟨address.i, address.m, address.l, address.b⟩, control.cntr,
    ⟨machine.params, machine.im, machine.halted⟩, ⟨errors.errCnt, errors.errLog⟩,
    flow.pc_of_no_loop, flow.pending, flow.target, cycles, prev⟩

end Sys2Proof.Machine
end

section
/-! PROOFS. Hard reset (spec/70_reset_and_hazards.md R440): the lanes and address registers it leaves,
the shared rows of its table, and the host's transaction. -/

namespace Sys2Proof.Machine

/-! ## The rows per lane -/

@[simp] theorem getR_reset (k : Reg) : getR LaneState.reset k = 0 :=
  Vector.getElem_replicate k.isLt

@[simp] theorem getAcc_reset (k : AccIx) : getAcc LaneState.reset k = 0 :=
  Vector.getElem_replicate k.isLt

/-- Each lane restarts but for its data memory. -/
@[simp] theorem lane_hardReset (s : State) (n : LaneId) :
    (hardReset s).lane n = { LaneState.reset with dm := (s.lane n).dm } := Lanes.get_ofFn _ n

theorem getR_lane_hardReset (s : State) (n : LaneId) (k : Reg) :
    getR ((hardReset s).lane n) k = 0 := by
  rw [getR_congr (a := LaneState.reset) (by simp), getR_reset]

theorem getAcc_lane_hardReset (s : State) (n : LaneId) (k : AccIx) :
    getAcc ((hardReset s).lane n) k = 0 := by
  rw [getAcc_congr (a := LaneState.reset) (by simp), getAcc_reset]

theorem astat_lane_hardReset (s : State) (n : LaneId) :
    ((hardReset s).lane n).astatR = 0 ∧ ((hardReset s).lane n).astatI = 0 ∧
      ((hardReset s).lane n).astatC = 0 := by
  rw [lane_hardReset]
  exact ⟨rfl, rfl, rfl⟩

theorem dataWord_hardReset (s : State) (n : LaneId) (a : Addr) :
    dataWord (hardReset s) n a = dataWord s n a := by
  simp [dataWord]

/-! ## The shared rows -/

theorem readG_hardReset (s : State) (g : GClass) (k : GIx) : readG (hardReset s) g k = 0 := by
  cases g <;> exact Vector.getElem_replicate k.isLt

/-- `DPID` is the lane's number in every state, after hard reset too. -/
theorem readCtl_dpid (s : State) (n : LaneId) : readCtl s n .dpid = BitVec.ofNat 12 n.val := rfl

@[simp] theorem hardReset_cntr (s : State) : (hardReset s).cntr = 0 := rfl
@[simp] theorem hardReset_mstat (s : State) : (hardReset s).mstat = 0 := rfl
@[simp] theorem hardReset_sstat (s : State) : (hardReset s).sstat = 0 := rfl
@[simp] theorem hardReset_pcStk (s : State) : (hardReset s).pcStk = [] := rfl
@[simp] theorem hardReset_lpStk (s : State) : (hardReset s).lpStk = [] := rfl
@[simp] theorem hardReset_stsStk (s : State) : (hardReset s).stsStk = [] := rfl
@[simp] theorem hardReset_pc (s : State) : (hardReset s).pc = s.params.entry := rfl
@[simp] theorem hardReset_dsPending (s : State) : (hardReset s).dsPending = false := rfl
@[simp] theorem hardReset_dsTarget (s : State) : (hardReset s).dsTarget = 0 := rfl
@[simp] theorem hardReset_prevStore (s : State) : (hardReset s).prevStore = false := rfl
@[simp] theorem hardReset_cycles (s : State) : (hardReset s).cycles = 0 := rfl
@[simp] theorem hardReset_errCnt (s : State) : (hardReset s).errCnt = 0 := rfl
@[simp] theorem hardReset_errLog (s : State) : (hardReset s).errLog = [] := rfl
@[simp] theorem hardReset_halted (s : State) : (hardReset s).halted = false := rfl
@[simp] theorem hardReset_im (s : State) : (hardReset s).im = s.im := rfl
@[simp] theorem hardReset_params (s : State) : (hardReset s).params = s.params := rfl

/-! ## The host's hard reset -/

/-- With nothing loaded the memories that hard reset keeps are empty, so it changes nothing. -/
theorem hardReset_resetWith (p : Params) : hardReset (State.resetWith p) = State.resetWith p := rfl

/-- The breakpoints are the host's own (60_exceptions.md R426). -/
theorem transact_hardReset (h : Stepper) :
    (transact h .hardReset).1.machine = hardReset h.machine ∧
      (transact h .hardReset).1.breakpoints = h.breakpoints := ⟨rfl, rfl⟩

/-- Settles O6: the rows of R440 in their order, the host's transaction, and the state after reset. -/
theorem resetValues : Obligations.ResetValues := by
  refine ⟨?rows, transact_hardReset, hardReset_resetWith, rfl⟩
  case rows =>
    rintro s _ rfl
    exact ⟨getR_lane_hardReset s, getAcc_lane_hardReset s, readG_hardReset s, readCtl_dpid _,
      hardReset_cntr s, astat_lane_hardReset s, hardReset_mstat s, hardReset_sstat s,
      hardReset_pcStk s, hardReset_lpStk s, hardReset_stsStk s, hardReset_pc s,
      hardReset_dsPending s, hardReset_dsTarget s, hardReset_prevStore s, hardReset_cycles s,
      hardReset_errCnt s, hardReset_errLog s, hardReset_halted s, dataWord_hardReset s,
      hardReset_im s, hardReset_params s⟩

end Sys2Proof.Machine
end

section
/-! PROOFS. Decoding the word of an instruction gives it back (spec/30_encoding.md R107, first half): the
fields of an encoded word, then one lemma per template, then one line per row of the opcode map. -/

namespace Sys2Proof

/-! ## Fields of an encoded word -/

/-- Every template is one word wide (R100, R102). -/
theorem totalWidth_fieldsOf (i : Instr) : totalWidth (fieldsOf i) = 32 := by
  cases i <;> simp [fieldsOf, emitT0, emitBr, emitR3, emitR2, emitRI, emitMac, emitMacC, emitLsa,
    emitLsm, emitLsi, emitAluLd, emitMacLd, emitMacLdLd, emitShiftSt]

section Fields

variable {i : Instr} {lo n : Nat}

/-- `fld_encode` where the value of the field is known. -/
theorem fld_encode_of {v : Nat} (hp : pickField (fieldsOf i) lo n = some v) :
    fld (encode i) lo n = v := by
  rw [fld_encode i (totalWidth_fieldsOf i) lo n (by rw [hp]; rfl), hp, Option.getD_some]

theorem fReg_encode (r : Reg) (hp : pickField (fieldsOf i) lo 5 = some (r.val % 2 ^ 5)) :
    fReg (encode i) lo = r :=
  Fin.ext ((fld_encode_of hp).trans (Nat.mod_eq_of_lt r.isLt))

theorem fFin8_encode (r : Fin 8) (hp : pickField (fieldsOf i) lo 3 = some (r.val % 2 ^ 3)) :
    fFin8 (encode i) lo = r :=
  Fin.ext ((fld_encode_of hp).trans (Nat.mod_eq_of_lt r.isLt))

theorem fFin4_encode (r : Fin 4) (hp : pickField (fieldsOf i) lo 2 = some (r.val % 2 ^ 2)) :
    fFin4 (encode i) lo = r :=
  Fin.ext ((fld_encode_of hp).trans (Nat.mod_eq_of_lt r.isLt))

theorem fBits_encode (b : BitVec n) 
    (hp : pickField (fieldsOf i) lo n = some (b.toNat % 2 ^ n)) : fBits (encode i) lo n = b := by
  rw [fBits, fld_encode_of hp, Nat.mod_eq_of_lt b.isLt, BitVec.ofNat_toNat, BitVec.setWidth_eq]

/-! ## Field checks on an encoded word -/

theorem withPad_encode (k : Decoded) (hp : pickField (fieldsOf i) lo n = some 0) :
    withPad (encode i) lo n k = k := by
  rw [withPad, fld_encode_of hp, if_pos rfl]

theorem withCond_encode (c : Cond) (k : Cond → Decoded) 
    (hp : pickField (fieldsOf i) 0 4 = some (c.code % 16)) : withCond (encode i) k = k c := by
  rw [withCond, fld_encode_of hp, Cond.ofCode_code]

theorem withTerm_encode (t : Term) (k : Term → Decoded) 
    (hp : pickField (fieldsOf i) 0 4 = some (t.code % 16)) : withTerm (encode i) k = k t := by
  rw [withTerm, fld_encode_of hp, Term.ofCode_code]

theorem withOpt_encode (o : MacOpt) (k : MacOpt → Decoded) 
    (hp : pickField (fieldsOf i) lo 3 = some (o.code % 8)) : withOpt (encode i) lo k = k o := by
  rw [withOpt, fld_encode_of hp, MacOpt.ofCode_code]

theorem withView_encode (v : View) (k : View → Decoded) 
    (hp : pickField (fieldsOf i) lo 2 = some (v.code % 4)) : withView (encode i) lo k = k v := by
  rw [withView, fld_encode_of hp, View.ofCode_code]

theorem withCtl_encode (x : Ctl) (k : Ctl → Decoded) 
    (hp : pickField (fieldsOf i) lo 4 = some (x.code % 16)) : withCtl (encode i) lo k = k x := by
  rw [withCtl, fld_encode_of hp, Ctl.ofCode_code]

theorem gclass_encode (g : GClass)
    (hp : pickField (fieldsOf i) lo 2 = some (g.code % 4)) : GClass.ofCode (fld (encode i) lo 2) = g := by
  rw [fld_encode_of hp, GClass.ofCode_code]

end Fields

/-! ## Templates -/

section Templates

variable {i : Instr} {opc : Nat}

theorem asT0_encode (j : Instr) (h : fieldsOf i = emitT0 opc) : asT0 (encode i) j = .ok j := by
  simp [asT0, withPad_encode, h, emitT0, pickField]

theorem asBr_encode {off : BitVec 16} {c : Cond} (mk : BitVec 16 → Cond → Instr)
    (h : fieldsOf i = emitBr opc off c) : asBr (encode i) mk = .ok (mk off c) := by
  simp [asBr, withPad_encode, withCond_encode c, fBits_encode off, h, emitBr, pickField]

theorem asR3_encode {rd rx ry : Reg} {c : Cond} (mk : Reg → Reg → Reg → Cond → Instr)
    (h : fieldsOf i = emitR3 opc rd rx ry c) : asR3 (encode i) mk = .ok (mk rd rx ry c) := by
  simp [asR3, withPad_encode, withCond_encode c, fReg_encode rd, fReg_encode rx, fReg_encode ry, h,
    emitR3, pickField]

theorem asR2_encode {rd rx : Reg} {c : Cond} (mk : Reg → Reg → Cond → Instr)
    (h : fieldsOf i = emitR2 opc rd rx c) : asR2 (encode i) mk = .ok (mk rd rx c) := by
  simp [asR2, withPad_encode, withCond_encode c, fReg_encode rd, fReg_encode rx, h, emitR2,
    pickField]

theorem asRI_encode {rd rx : Reg} {imm : BitVec 8} {c : Cond}
    (mk : Reg → Reg → BitVec 8 → Cond → Instr) (h : fieldsOf i = emitRI opc rd rx imm c) :
    asRI (encode i) mk = .ok (mk rd rx imm c) := by
  simp [asRI, withPad_encode, withCond_encode c, fReg_encode rd, fReg_encode rx, fBits_encode imm,
    h, emitRI, pickField]

theorem asMac_encode {o : MacOpt} {acc : AccIx} {rx ry : Reg} {c : Cond}
    (mk : MacOpt → AccIx → Reg → Reg → Cond → Instr) (h : fieldsOf i = emitMac opc o acc rx ry c) :
    asMac (encode i) mk = .ok (mk o acc rx ry c) := by
  simp [asMac, withPad_encode, withOpt_encode o, withCond_encode c, fFin8_encode acc, fReg_encode rx,
    fReg_encode ry, h, emitMac, pickField]

theorem asMacC_encode {conj : Bool} {o : MacOpt} {acc : AccIx} {rx ry : Reg} {c : Cond}
    (mk : Bool → MacOpt → AccIx → Reg → Reg → Cond → Instr)
    (h : fieldsOf i = emitMacC opc conj o acc rx ry c) :
    asMacC (encode i) mk = .ok (mk conj o acc rx ry c) := by
  have mark : (fld (encode i) 20 1 == 1) = conj := by
    rw [fld_encode_of (v := conj.toNat % 2 ^ 1) (by simp [h, emitMacC, pickField])]
    cases conj <;> rfl
  simp [asMacC, mark, withPad_encode, withOpt_encode o, withCond_encode c, fFin8_encode acc,
    fReg_encode rx, fReg_encode ry, h, emitMacC, pickField]

theorem asLsa_encode {r : Reg} {a : BitVec 16} (mk : Reg → BitVec 16 → Instr)
    (h : fieldsOf i = emitLsa opc r a) : asLsa (encode i) mk = .ok (mk r a) := by
  simp [asLsa, withPad_encode, fReg_encode r, fBits_encode a, h, emitLsa, pickField]

theorem asLsm_encode {r : Reg} {k m : GIx} {c : Cond} (mk : Reg → GIx → GIx → Cond → Instr)
    (h : fieldsOf i = emitLsm opc r k m c) : asLsm (encode i) mk = .ok (mk r k m c) := by
  simp [asLsm, withPad_encode, withCond_encode c, fReg_encode r, fFin8_encode k, fFin8_encode m, h,
    emitLsm, pickField]

theorem asLsi_encode {r : Reg} {k : GIx} {imm : BitVec 8} {c : Cond}
    (mk : Reg → GIx → BitVec 8 → Cond → Instr) (h : fieldsOf i = emitLsi opc r k imm c) :
    asLsi (encode i) mk = .ok (mk r k imm c) := by
  simp [asLsi, withPad_encode, withCond_encode c, fReg_encode r, fFin8_encode k, fBits_encode imm,
    h, emitLsi, pickField]

theorem asAluLd_encode {rd rx ry : Reg} {lrd : Reg8} {li lm : Ix4} {c : Cond}
    (mk : Reg → Reg → Reg → Reg8 → Ix4 → Ix4 → Cond → Instr)
    (h : fieldsOf i = emitAluLd opc rd rx ry lrd li lm c) :
    asAluLd (encode i) mk = .ok (mk rd rx ry lrd li lm c) := by
  simp [asAluLd, withCond_encode c, fReg_encode rd, fReg_encode rx, fReg_encode ry, fFin8_encode lrd,
    fFin4_encode li, fFin4_encode lm, h, emitAluLd, pickField]

theorem asMacLd_encode {o : MacOpt} {acc : AccIx} {rx ry : Reg} {lrd : Reg8} {li lm : Ix4} {c : Cond}
    (mk : MacOpt → AccIx → Reg → Reg → Reg8 → Ix4 → Ix4 → Cond → Instr)
    (h : fieldsOf i = emitMacLd opc o acc rx ry lrd li lm c) :
    asMacLd (encode i) mk = .ok (mk o acc rx ry lrd li lm c) := by
  simp [asMacLd, withOpt_encode o, withCond_encode c, fFin8_encode acc, fReg_encode rx, fReg_encode ry,
    fFin8_encode lrd, fFin4_encode li, fFin4_encode lm, h, emitMacLd, pickField]

theorem asMacLdLd_encode {o : MacOpt1} {acc : Acc4} {rx ry l1rd : Reg8} {l1i l1m : Ix4} {l2rd : Reg8}
    {l2i l2m : Ix4} {c : Cond}
    (mk : MacOpt1 → Acc4 → Reg8 → Reg8 → Reg8 → Ix4 → Ix4 → Reg8 → Ix4 → Ix4 → Cond → Instr)
    (h : fieldsOf i = emitMacLdLd opc o acc rx ry l1rd l1i l1m l2rd l2i l2m c) :
    asMacLdLd (encode i) mk = .ok (mk o acc rx ry l1rd l1i l1m l2rd l2i l2m c) := by
  have opt : MacOpt1.ofCode (fld (encode i) 26 1) = o := by
    rw [fld_encode_of (v := o.code % 2) (by simp [h, emitMacLdLd, pickField])]
    exact MacOpt1.ofCode_code o
  simp [asMacLdLd, opt, withCond_encode c, fFin4_encode acc, fFin8_encode rx, fFin8_encode ry,
    fFin8_encode l1rd, fFin4_encode l1i, fFin4_encode l1m, fFin8_encode l2rd, fFin4_encode l2i,
    fFin4_encode l2m, h, emitMacLdLd, pickField]

theorem asShiftSt_encode {rd rx ry : Reg} {srs : Reg8} {si sm : Ix4} {c : Cond}
    (mk : Reg → Reg → Reg → Reg8 → Ix4 → Ix4 → Cond → Instr)
    (h : fieldsOf i = emitShiftSt opc rd rx ry srs si sm c) :
    asShiftSt (encode i) mk = .ok (mk rd rx ry srs si sm c) := by
  simp [asShiftSt, asAluLd, withPad_encode, withCond_encode c, fReg_encode rd, fReg_encode rx,
    fReg_encode ry, fFin8_encode srs, fFin4_encode si, fFin4_encode sm, h, emitShiftSt, pickField]

theorem withPairs_of_wf {k : Decoded} (h : k = .ok i) (wf : i.wf = true) : withPairs k = .ok i :=
  (withPairs_ok k i).mpr ⟨h, wf⟩

end Templates

/-! ## The opcode map -/

/-- A word whose first bit is 0 is decoded by its `opc` field. -/
theorem decode_encode_single {i : Instr} (opc : Nat) {rest : List Field}
    (h : fieldsOf i = (1, 0) :: (7, opc) :: rest) (fits : opc < 2 ^ 7 := by decide) :
    decode (encode i) = decodeSingle (encode i) opc := by
  have width := totalWidth_fieldsOf i
  rw [h, totalWidth_cons, totalWidth_cons] at width
  have below : totalWidth rest = 24 := by omega
  rw [decode, fld_encode_of (v := 0) (by simp [h, pickField, below]), if_pos rfl,
    fld_encode_of (v := opc) (by simpa [h, pickField, below] using fits)]

/-- A word whose first bit is 1 is decoded by its `bshape` field. -/
theorem decode_encode_bundle {i : Instr} (shape : Nat) {rest : List Field}
    (h : fieldsOf i = (1, 1) :: (2, shape) :: rest) (fits : shape < 2 ^ 2 := by decide) :
    decode (encode i) = decodeBundle (encode i) shape := by
  have width := totalWidth_fieldsOf i
  rw [h, totalWidth_cons, totalWidth_cons] at width
  have below : totalWidth rest = 29 := by omega
  rw [decode, fld_encode_of (v := 1) (by simp [h, pickField, below]), if_neg (by decide),
    fld_encode_of (v := shape) (by simpa [h, pickField, below] using fits)]

/-- The sub-operation code of `ALU || LD` (R142). -/
theorem aluop_encode {i : Instr} (aluop : Nat) {rd rx ry : Reg} {lrd : Reg8} {li lm : Ix4} {c : Cond}
    (h : fieldsOf i = emitAluLd aluop rd rx ry lrd li lm c) (fits : aluop < 2 ^ 3 := by decide) :
    fld (encode i) 26 3 = aluop :=
  fld_encode_of (by simpa [h, emitAluLd, pickField] using fits)

/-- The sub-operation code of `MAC || LD` (R143). -/
theorem macop_encode {i : Instr} (macop : Nat) {o : MacOpt} {acc : AccIx} {rx ry : Reg} {lrd : Reg8}
    {li lm : Ix4} {c : Cond} (h : fieldsOf i = emitMacLd macop o acc rx ry lrd li lm c)
    (fits : macop < 2 ^ 2 := by decide) : fld (encode i) 27 2 = macop :=
  fld_encode_of (by simpa [h, emitMacLd, pickField] using fits)

/-- The sub-operation code of `MAC || LD || LD` (R144). -/
theorem macop3_encode {i : Instr} (macop : Nat) {o : MacOpt1} {acc : Acc4} {rx ry l1rd : Reg8}
    {l1i l1m : Ix4} {l2rd : Reg8} {l2i l2m : Ix4} {c : Cond}
    (h : fieldsOf i = emitMacLdLd macop o acc rx ry l1rd l1i l1m l2rd l2i l2m c)
    (fits : macop < 2 ^ 2 := by decide) : fld (encode i) 27 2 = macop :=
  fld_encode_of (by simpa [h, emitMacLdLd, pickField] using fits)

/-- The sub-operation code of `SHIFT || ST` (R145). -/
theorem shop_encode {i : Instr} (shop : Nat) {rd rx ry : Reg} {srs : Reg8} {si sm : Ix4} {c : Cond}
    (h : fieldsOf i = emitShiftSt shop rd rx ry srs si sm c) (fits : shop < 2 ^ 1 := by decide) :
    fld (encode i) 28 1 = shop :=
  fld_encode_of (by simpa [h, emitShiftSt, pickField] using fits)

/-- Decoding inverts encoding, row by row of the opcode map (R146, R147). -/
theorem decode_encode (i : Instr) (wf : i.wf = true) : decode (encode i) = .ok i := by
  cases i
  case nop => exact (decode_encode_single 0x01 rfl).trans (asT0_encode _ rfl)
  case reset => exact (decode_encode_single 0x02 rfl).trans (asT0_encode _ rfl)
  case pushSts => exact (decode_encode_single 0x03 rfl).trans (asT0_encode _ rfl)
  case popSts => exact (decode_encode_single 0x04 rfl).trans (asT0_encode _ rfl)
  case jump => exact (decode_encode_single 0x08 rfl).trans (asBr_encode _ rfl)
  case call => exact (decode_encode_single 0x09 rfl).trans (asBr_encode _ rfl)
  case rts c =>
    rw [decode_encode_single 0x0A rfl]
    simp [decodeSingle, asRet, withPad_encode, withCond_encode c, fieldsOf, pickField]
  case doUntil off term =>
    rw [decode_encode_single 0x0B rfl]
    simp [decodeSingle, asDo, withPad_encode, withTerm_encode term, fBits_encode off, fieldsOf,
      pickField]
  case addRRR => exact (decode_encode_single 0x10 rfl).trans (asR3_encode _ rfl)
  case addcRRR => exact (decode_encode_single 0x11 rfl).trans (asR3_encode _ rfl)
  case subRRR => exact (decode_encode_single 0x12 rfl).trans (asR3_encode _ rfl)
  case subbRRR => exact (decode_encode_single 0x13 rfl).trans (asR3_encode _ rfl)
  case andRRR => exact (decode_encode_single 0x14 rfl).trans (asR3_encode _ rfl)
  case orRRR => exact (decode_encode_single 0x15 rfl).trans (asR3_encode _ rfl)
  case xorRRR => exact (decode_encode_single 0x16 rfl).trans (asR3_encode _ rfl)
  case notRR => exact (decode_encode_single 0x18 rfl).trans (asR2_encode _ rfl)
  case absRR => exact (decode_encode_single 0x19 rfl).trans (asR2_encode _ rfl)
  case negRR => exact (decode_encode_single 0x1A rfl).trans (asR2_encode _ rfl)
  case cpRR => exact (decode_encode_single 0x1B rfl).trans (asR2_encode _ rfl)
  case ashiftRRR => exact (decode_encode_single 0x1C rfl).trans (asR3_encode _ rfl)
  case lshiftRRR => exact (decode_encode_single 0x1D rfl).trans (asR3_encode _ rfl)
  case divsRRR => exact (decode_encode_single 0x1E rfl).trans (asR3_encode _ rfl)
  case divqRRR => exact (decode_encode_single 0x1F rfl).trans (asR3_encode _ rfl)
  case addRRI => exact (decode_encode_single 0x20 rfl).trans (asRI_encode _ rfl)
  case addcRRI => exact (decode_encode_single 0x21 rfl).trans (asRI_encode _ rfl)
  case subRRI => exact (decode_encode_single 0x22 rfl).trans (asRI_encode _ rfl)
  case subbRRI => exact (decode_encode_single 0x23 rfl).trans (asRI_encode _ rfl)
  case andRRI => exact (decode_encode_single 0x24 rfl).trans (asRI_encode _ rfl)
  case orRRI => exact (decode_encode_single 0x25 rfl).trans (asRI_encode _ rfl)
  case xorRRI => exact (decode_encode_single 0x26 rfl).trans (asRI_encode _ rfl)
  case ashiftRRI => exact (decode_encode_single 0x2C rfl).trans (asRI_encode _ rfl)
  case lshiftRRI => exact (decode_encode_single 0x2D rfl).trans (asRI_encode _ rfl)
  case addC => exact (decode_encode_single 0x30 rfl).trans (withPairs_of_wf (asR3_encode _ rfl) wf)
  case subC => exact (decode_encode_single 0x32 rfl).trans (withPairs_of_wf (asR3_encode _ rfl) wf)
  case conjC => exact (decode_encode_single 0x38 rfl).trans (withPairs_of_wf (asR2_encode _ rfl) wf)
  case polarC => exact (decode_encode_single 0x39 rfl).trans (withPairs_of_wf (asR2_encode _ rfl) wf)
  case rectC => exact (decode_encode_single 0x3A rfl).trans (withPairs_of_wf (asR2_encode _ rfl) wf)
  case cpC => exact (decode_encode_single 0x3B rfl).trans (withPairs_of_wf (asR2_encode _ rfl) wf)
  case mpy => exact (decode_encode_single 0x40 rfl).trans (asMac_encode _ rfl)
  case mac => exact (decode_encode_single 0x41 rfl).trans (asMac_encode _ rfl)
  case mas => exact (decode_encode_single 0x42 rfl).trans (asMac_encode _ rfl)
  case mpyC => exact (decode_encode_single 0x44 rfl).trans (withPairs_of_wf (asMacC_encode _ rfl) wf)
  case macC => exact (decode_encode_single 0x45 rfl).trans (withPairs_of_wf (asMacC_encode _ rfl) wf)
  case masC => exact (decode_encode_single 0x46 rfl).trans (withPairs_of_wf (asMacC_encode _ rfl) wf)
  case cpVR v acc rx c =>
    rw [decode_encode_single 0x48 rfl]
    simp [decodeSingle, withPad_encode, withView_encode v, withCond_encode c, fFin8_encode acc,
      fReg_encode rx, fieldsOf, pickField]
  case cpRV rd v acc c =>
    rw [decode_encode_single 0x49 rfl]
    simp [decodeSingle, withPad_encode, withView_encode v, withCond_encode c, fReg_encode rd,
      fFin8_encode acc, fieldsOf, pickField]
  case cpAA accd accs c =>
    rw [decode_encode_single 0x4A rfl]
    simp [decodeSingle, withPad_encode, withCond_encode c, fFin8_encode accd, fFin8_encode accs,
      fieldsOf, pickField]
  case cpGR g k rx c =>
    rw [decode_encode_single 0x4C rfl]
    simp [decodeSingle, withPad_encode, withCond_encode c, gclass_encode g, fFin8_encode k,
      fReg_encode rx, fieldsOf, pickField]
  case cpRG rd g k c =>
    rw [decode_encode_single 0x4D rfl]
    simp [decodeSingle, withPad_encode, withCond_encode c, fReg_encode rd, gclass_encode g,
      fFin8_encode k, fieldsOf, pickField]
  case cpCR ctl rx c =>
    rw [decode_encode_single 0x4E rfl]
    simp [decodeSingle, withPad_encode, withCtl_encode ctl, withCond_encode c, fReg_encode rx,
      fieldsOf, pickField]
  case cpRC rd ctl c =>
    rw [decode_encode_single 0x4F rfl]
    simp [decodeSingle, withPad_encode, withCtl_encode ctl, withCond_encode c, fReg_encode rd,
      fieldsOf, pickField]
  case ldRI rd imm c =>
    rw [decode_encode_single 0x50 rfl]
    simp [decodeSingle, withPad_encode, withCond_encode c, fReg_encode rd, fBits_encode imm,
      fieldsOf, pickField]
  case ldGI g k imm =>
    rw [decode_encode_single 0x51 rfl]
    simp [decodeSingle, withPad_encode, gclass_encode g, fFin8_encode k, fBits_encode imm,
      fieldsOf, pickField]
  case ldCI ctl imm =>
    rw [decode_encode_single 0x52 rfl]
    simp [decodeSingle, withPad_encode, withCtl_encode ctl, fBits_encode imm, fieldsOf, pickField]
  case ldAbs => exact (decode_encode_single 0x54 rfl).trans (asLsa_encode _ rfl)
  case stAbs => exact (decode_encode_single 0x55 rfl).trans (asLsa_encode _ rfl)
  case ldCAbs => exact (decode_encode_single 0x56 rfl).trans (withPairs_of_wf (asLsa_encode _ rfl) wf)
  case stCAbs => exact (decode_encode_single 0x57 rfl).trans (withPairs_of_wf (asLsa_encode _ rfl) wf)
  case ldPostM => exact (decode_encode_single 0x58 rfl).trans (asLsm_encode _ rfl)
  case stPostM => exact (decode_encode_single 0x59 rfl).trans (asLsm_encode _ rfl)
  case ldCPostM => exact (decode_encode_single 0x5A rfl).trans (withPairs_of_wf (asLsm_encode _ rfl) wf)
  case stCPostM => exact (decode_encode_single 0x5B rfl).trans (withPairs_of_wf (asLsm_encode _ rfl) wf)
  case ldPreM => exact (decode_encode_single 0x5C rfl).trans (asLsm_encode _ rfl)
  case stPreM => exact (decode_encode_single 0x5D rfl).trans (asLsm_encode _ rfl)
  case ldCPreM => exact (decode_encode_single 0x5E rfl).trans (withPairs_of_wf (asLsm_encode _ rfl) wf)
  case stCPreM => exact (decode_encode_single 0x5F rfl).trans (withPairs_of_wf (asLsm_encode _ rfl) wf)
  case ldPostI => exact (decode_encode_single 0x60 rfl).trans (asLsi_encode _ rfl)
  case stPostI => exact (decode_encode_single 0x61 rfl).trans (asLsi_encode _ rfl)
  case ldCPostI => exact (decode_encode_single 0x62 rfl).trans (withPairs_of_wf (asLsi_encode _ rfl) wf)
  case stCPostI => exact (decode_encode_single 0x63 rfl).trans (withPairs_of_wf (asLsi_encode _ rfl) wf)
  case ldPreI => exact (decode_encode_single 0x64 rfl).trans (asLsi_encode _ rfl)
  case stPreI => exact (decode_encode_single 0x65 rfl).trans (asLsi_encode _ rfl)
  case ldCPreI => exact (decode_encode_single 0x66 rfl).trans (withPairs_of_wf (asLsi_encode _ rfl) wf)
  case stCPreI => exact (decode_encode_single 0x67 rfl).trans (withPairs_of_wf (asLsi_encode _ rfl) wf)
  case addLd =>
    rw [decode_encode_bundle 0 rfl, decodeBundle, aluop_encode 0 rfl]
    exact asAluLd_encode _ rfl
  case addcLd =>
    rw [decode_encode_bundle 0 rfl, decodeBundle, aluop_encode 1 rfl]
    exact asAluLd_encode _ rfl
  case subLd =>
    rw [decode_encode_bundle 0 rfl, decodeBundle, aluop_encode 2 rfl]
    exact asAluLd_encode _ rfl
  case subbLd =>
    rw [decode_encode_bundle 0 rfl, decodeBundle, aluop_encode 3 rfl]
    exact asAluLd_encode _ rfl
  case andLd =>
    rw [decode_encode_bundle 0 rfl, decodeBundle, aluop_encode 4 rfl]
    exact asAluLd_encode _ rfl
  case orLd =>
    rw [decode_encode_bundle 0 rfl, decodeBundle, aluop_encode 5 rfl]
    exact asAluLd_encode _ rfl
  case xorLd =>
    rw [decode_encode_bundle 0 rfl, decodeBundle, aluop_encode 6 rfl]
    exact asAluLd_encode _ rfl
  case mpyLd =>
    rw [decode_encode_bundle 1 rfl, decodeBundle, macop_encode 0 rfl]
    exact asMacLd_encode _ rfl
  case macLd =>
    rw [decode_encode_bundle 1 rfl, decodeBundle, macop_encode 1 rfl]
    exact asMacLd_encode _ rfl
  case masLd =>
    rw [decode_encode_bundle 1 rfl, decodeBundle, macop_encode 2 rfl]
    exact asMacLd_encode _ rfl
  case mpyLdLd =>
    rw [decode_encode_bundle 2 rfl, decodeBundle, macop3_encode 0 rfl]
    exact asMacLdLd_encode _ rfl
  case macLdLd =>
    rw [decode_encode_bundle 2 rfl, decodeBundle, macop3_encode 1 rfl]
    exact asMacLdLd_encode _ rfl
  case masLdLd =>
    rw [decode_encode_bundle 2 rfl, decodeBundle, macop3_encode 2 rfl]
    exact asMacLdLd_encode _ rfl
  case ashiftSt =>
    rw [decode_encode_bundle 3 rfl]
    simp only [decodeBundle]
    rw [shop_encode 0 rfl]
    exact asShiftSt_encode _ rfl
  case lshiftSt =>
    rw [decode_encode_bundle 3 rfl]
    simp only [decodeBundle]
    rw [shop_encode 1 rfl]
    exact asShiftSt_encode _ rfl

/-- Settles O1: the row of each constructor in the opcode map, and the template of that row. -/
theorem decodeOfEncode : Obligations.DecodeOfEncode := decode_encode

end Sys2Proof
end

section
/-! PROOFS. A word that decodes is the word of the instruction it decodes to (spec/30_encoding.md R107,
second half, and R164): per template, the fields of the instruction are the fields of the word. -/

namespace Sys2Proof

/-- A field read from a word fits its width, so emitting it changes nothing. -/
theorem fld_mod (w : IWord) (lo n : Nat) : fld w lo n % 2 ^ n = fld w lo n :=
  Nat.mod_eq_of_lt (fld_lt w lo n)

theorem toNat_fBits (w : IWord) (lo n : Nat) : (fBits w lo n).toNat = fld w lo n := by
  rw [fBits, BitVec.toNat_ofNat, fld_mod]

theorem val_fReg (w : IWord) (lo : Nat) : (fReg w lo).val = fld w lo 5 := rfl
theorem val_fFin8 (w : IWord) (lo : Nat) : (fFin8 w lo).val = fld w lo 3 := rfl
theorem val_fFin4 (w : IWord) (lo : Nat) : (fFin4 w lo).val = fld w lo 2 := rfl

theorem code_gclass (w : IWord) (lo : Nat) : (GClass.ofCode (fld w lo 2)).code = fld w lo 2 :=
  GClass.code_of _ (fld_lt w lo 2)

theorem code_macOpt1 (w : IWord) (lo : Nat) : (MacOpt1.ofCode (fld w lo 1)).code = fld w lo 1 :=
  MacOpt1.code_of _ (fld_lt w lo 1)

theorem toNat_bitSet (w : IWord) (lo : Nat) : (fld w lo 1 == 1).toNat = fld w lo 1 := by
  have bit : fld w lo 1 = 0 ∨ fld w lo 1 = 1 := by have := fld_lt w lo 1; omega
  obtain h | h := bit <;> rw [h] <;> rfl

/-- `w` is a single-issue word with this `opc`. -/
structure HasOpcode (w : IWord) (opc : Nat) : Prop where
  single : fld w 31 1 = 0
  opcode : fld w 24 7 = opc

/-- `w` is the word of the well-formed instruction `i`. -/
structure IsWordOf (i : Instr) (w : IWord) : Prop where
  wf : i.wf = true
  word : encode i = w

section Templates

variable {w : IWord} {opc : Nat} {i : Instr}

/-- The rest of the second half, shared by the templates: the fields of the answer are those of the word. -/
theorem isWordOf_of_tiles (wf : i.wf = true) (h : Tiles w (fieldsOf i)) : IsWordOf i w :=
  ⟨wf, encode_of_tiles w i (totalWidth_fieldsOf i) h⟩

theorem asT0_word {j : Instr} (top : HasOpcode w opc) (h : asT0 w j = .ok i)
    (fields : fieldsOf j = emitT0 opc := by rfl) (wf : j.wf = true := by rfl) : IsWordOf i w := by
  simp only [asT0, withPad_ok, Except.ok.injEq] at h
  obtain ⟨pad, rfl⟩ := h
  obtain ⟨single, rfl⟩ := top
  refine isWordOf_of_tiles wf ?_
  simp only [fields, emitT0, Tiles, single, pad, totalWidth_cons, totalWidth_nil, fld_mod,
    -Nat.reducePow]
  decide

theorem asBr_word {mk : BitVec 16 → Cond → Instr}
    (top : HasOpcode w opc)
    (h : asBr w mk = .ok i)
    (fields : ∀ off c, fieldsOf (mk off c) = emitBr opc off c := by intros; rfl)
    (wf : ∀ off c, mk off c = i → i.wf = true := by intros; subst_vars; rfl) : IsWordOf i w := by
  simp only [asBr, withPad_ok, withCond_ok, Except.ok.injEq] at h
  obtain ⟨pad, c, cond, rfl⟩ := h
  obtain ⟨single, rfl⟩ := top
  refine isWordOf_of_tiles (wf _ _ rfl) ?_
  simp only [fields, emitBr, Tiles, single, pad, Cond.code_of cond, totalWidth_cons,
    totalWidth_nil, fld_mod, toNat_fBits, -Nat.reducePow]
  decide

theorem asR3_word {mk : Reg → Reg → Reg → Cond → Instr}
    (top : HasOpcode w opc)
    (h : asR3 w mk = .ok i)
    (fields : ∀ rd rx ry c, fieldsOf (mk rd rx ry c) = emitR3 opc rd rx ry c := by intros; rfl)
    (wf : ∀ rd rx ry c, mk rd rx ry c = i → i.wf = true := by intros; subst_vars; rfl) :
    IsWordOf i w := by
  simp only [asR3, withPad_ok, withCond_ok, Except.ok.injEq] at h
  obtain ⟨pad, c, cond, rfl⟩ := h
  obtain ⟨single, rfl⟩ := top
  refine isWordOf_of_tiles (wf _ _ _ _ rfl) ?_
  simp only [fields, emitR3, Tiles, single, pad, Cond.code_of cond, totalWidth_cons,
    totalWidth_nil, fld_mod, val_fReg, -Nat.reducePow]
  decide

theorem asR2_word {mk : Reg → Reg → Cond → Instr}
    (top : HasOpcode w opc)
    (h : asR2 w mk = .ok i)
    (fields : ∀ rd rx c, fieldsOf (mk rd rx c) = emitR2 opc rd rx c := by intros; rfl)
    (wf : ∀ rd rx c, mk rd rx c = i → i.wf = true := by intros; subst_vars; rfl) :
    IsWordOf i w := by
  simp only [asR2, withPad_ok, withCond_ok, Except.ok.injEq] at h
  obtain ⟨pad, c, cond, rfl⟩ := h
  obtain ⟨single, rfl⟩ := top
  refine isWordOf_of_tiles (wf _ _ _ rfl) ?_
  simp only [fields, emitR2, Tiles, single, pad, Cond.code_of cond, totalWidth_cons,
    totalWidth_nil, fld_mod, val_fReg, -Nat.reducePow]
  decide

theorem asRI_word {mk : Reg → Reg → BitVec 8 → Cond → Instr}
    (top : HasOpcode w opc)
    (h : asRI w mk = .ok i)
    (fields : ∀ rd rx imm c, fieldsOf (mk rd rx imm c) = emitRI opc rd rx imm c := by intros; rfl)
    (wf : ∀ rd rx imm c, mk rd rx imm c = i → i.wf = true := by intros; subst_vars; rfl) :
    IsWordOf i w := by
  simp only [asRI, withPad_ok, withCond_ok, Except.ok.injEq] at h
  obtain ⟨pad, c, cond, rfl⟩ := h
  obtain ⟨single, rfl⟩ := top
  refine isWordOf_of_tiles (wf _ _ _ _ rfl) ?_
  simp only [fields, emitRI, Tiles, single, pad, Cond.code_of cond, totalWidth_cons,
    totalWidth_nil, fld_mod, val_fReg, toNat_fBits, -Nat.reducePow]
  decide

theorem asMac_word {mk : MacOpt → AccIx → Reg → Reg → Cond → Instr}
    (top : HasOpcode w opc)
    (h : asMac w mk = .ok i)
    (fields : ∀ o acc rx ry c,
      fieldsOf (mk o acc rx ry c) = emitMac opc o acc rx ry c := by intros; rfl)
    (wf : ∀ o acc rx ry c, mk o acc rx ry c = i → i.wf = true := by intros; subst_vars; rfl) :
    IsWordOf i w := by
  simp only [asMac, withPad_ok, withOpt_ok, withCond_ok, Except.ok.injEq] at h
  obtain ⟨pad, o, opt, c, cond, rfl⟩ := h
  obtain ⟨single, rfl⟩ := top
  refine isWordOf_of_tiles (wf _ _ _ _ _ rfl) ?_
  simp only [fields, emitMac, Tiles, single, pad, MacOpt.code_of opt, Cond.code_of cond,
    totalWidth_cons, totalWidth_nil, fld_mod, val_fFin8, val_fReg, -Nat.reducePow]
  decide

theorem asMacC_word {mk : Bool → MacOpt → AccIx → Reg → Reg → Cond → Instr}
    (top : HasOpcode w opc)
    (h : asMacC w mk = .ok i)
    (fields : ∀ conj o acc rx ry c,
      fieldsOf (mk conj o acc rx ry c) = emitMacC opc conj o acc rx ry c := by intros; rfl)
    (wf : ∀ conj o acc rx ry c,
      mk conj o acc rx ry c = i → i.wf = true := by intros; subst_vars; rfl) :
    IsWordOf i w := by
  simp only [asMacC, withPad_ok, withOpt_ok, withCond_ok, Except.ok.injEq] at h
  obtain ⟨pad, o, opt, c, cond, rfl⟩ := h
  obtain ⟨single, rfl⟩ := top
  refine isWordOf_of_tiles (wf _ _ _ _ _ _ rfl) ?_
  simp only [fields, emitMacC, Tiles, single, pad, MacOpt.code_of opt, Cond.code_of cond,
    totalWidth_cons, totalWidth_nil, fld_mod, toNat_bitSet, val_fFin8, val_fReg, -Nat.reducePow]
  decide

theorem asLsa_word {mk : Reg → BitVec 16 → Instr}
    (top : HasOpcode w opc)
    (h : asLsa w mk = .ok i)
    (fields : ∀ r a, fieldsOf (mk r a) = emitLsa opc r a := by intros; rfl)
    (wf : ∀ r a, mk r a = i → i.wf = true := by intros; subst_vars; rfl) : IsWordOf i w := by
  simp only [asLsa, withPad_ok, Except.ok.injEq] at h
  obtain ⟨pad, rfl⟩ := h
  obtain ⟨single, rfl⟩ := top
  refine isWordOf_of_tiles (wf _ _ rfl) ?_
  simp only [fields, emitLsa, Tiles, single, pad, totalWidth_cons, totalWidth_nil, fld_mod,
    val_fReg, toNat_fBits, -Nat.reducePow]
  decide

theorem asLsm_word {mk : Reg → GIx → GIx → Cond → Instr}
    (top : HasOpcode w opc)
    (h : asLsm w mk = .ok i)
    (fields : ∀ r k m c, fieldsOf (mk r k m c) = emitLsm opc r k m c := by intros; rfl)
    (wf : ∀ r k m c, mk r k m c = i → i.wf = true := by intros; subst_vars; rfl) :
    IsWordOf i w := by
  simp only [asLsm, withPad_ok, withCond_ok, Except.ok.injEq] at h
  obtain ⟨pad, c, cond, rfl⟩ := h
  obtain ⟨single, rfl⟩ := top
  refine isWordOf_of_tiles (wf _ _ _ _ rfl) ?_
  simp only [fields, emitLsm, Tiles, single, pad, Cond.code_of cond, totalWidth_cons,
    totalWidth_nil, fld_mod, val_fReg, val_fFin8, -Nat.reducePow]
  decide

theorem asLsi_word {mk : Reg → GIx → BitVec 8 → Cond → Instr}
    (top : HasOpcode w opc)
    (h : asLsi w mk = .ok i)
    (fields : ∀ r k imm c, fieldsOf (mk r k imm c) = emitLsi opc r k imm c := by intros; rfl)
    (wf : ∀ r k imm c, mk r k imm c = i → i.wf = true := by intros; subst_vars; rfl) :
    IsWordOf i w := by
  simp only [asLsi, withPad_ok, withCond_ok, Except.ok.injEq] at h
  obtain ⟨pad, c, cond, rfl⟩ := h
  obtain ⟨single, rfl⟩ := top
  refine isWordOf_of_tiles (wf _ _ _ _ rfl) ?_
  simp only [fields, emitLsi, Tiles, single, pad, Cond.code_of cond, totalWidth_cons,
    totalWidth_nil, fld_mod, val_fReg, val_fFin8, toNat_fBits, -Nat.reducePow]
  decide

theorem asAluLd_word {aluop : Nat}
    {mk : Reg → Reg → Reg → Reg8 → Ix4 → Ix4 → Cond → Instr}
    (single : fld w 31 1 = 1) (shape : fld w 29 2 = 0) (sub : fld w 26 3 = aluop)
    (h : asAluLd w mk = .ok i)
    (fields : ∀ rd rx ry lrd li lm c,
      fieldsOf (mk rd rx ry lrd li lm c) = emitAluLd aluop rd rx ry lrd li lm c := by intros; rfl)
    (wf : ∀ rd rx ry lrd li lm c,
      mk rd rx ry lrd li lm c = i → i.wf = true := by intros; subst_vars; rfl) :
    IsWordOf i w := by
  simp only [asAluLd, withCond_ok, Except.ok.injEq] at h
  obtain ⟨c, cond, rfl⟩ := h
  subst sub
  refine isWordOf_of_tiles (wf _ _ _ _ _ _ _ rfl) ?_
  simp only [fields, emitAluLd, Tiles, single, shape, Cond.code_of cond, totalWidth_cons,
    totalWidth_nil, fld_mod, val_fReg, val_fFin8, val_fFin4, -Nat.reducePow]
  decide

theorem asMacLd_word {macop : Nat}
    {mk : MacOpt → AccIx → Reg → Reg → Reg8 → Ix4 → Ix4 → Cond → Instr}
    (single : fld w 31 1 = 1) (shape : fld w 29 2 = 1) (sub : fld w 27 2 = macop)
    (h : asMacLd w mk = .ok i)
    (fields : ∀ o acc rx ry lrd li lm c,
      fieldsOf (mk o acc rx ry lrd li lm c) = emitMacLd macop o acc rx ry lrd li lm c := by
        intros; rfl)
    (wf : ∀ o acc rx ry lrd li lm c,
      mk o acc rx ry lrd li lm c = i → i.wf = true := by intros; subst_vars; rfl) :
    IsWordOf i w := by
  simp only [asMacLd, withOpt_ok, withCond_ok, Except.ok.injEq] at h
  obtain ⟨o, opt, c, cond, rfl⟩ := h
  subst sub
  refine isWordOf_of_tiles (wf _ _ _ _ _ _ _ _ rfl) ?_
  simp only [fields, emitMacLd, Tiles, single, shape, MacOpt.code_of opt, Cond.code_of cond,
    totalWidth_cons, totalWidth_nil, fld_mod, val_fReg, val_fFin8, val_fFin4, -Nat.reducePow]
  decide

theorem asMacLdLd_word {macop : Nat}
    {mk : MacOpt1 → Acc4 → Reg8 → Reg8 → Reg8 → Ix4 → Ix4 → Reg8 → Ix4 → Ix4 → Cond → Instr}
    (single : fld w 31 1 = 1) (shape : fld w 29 2 = 2) (sub : fld w 27 2 = macop)
    (h : asMacLdLd w mk = .ok i)
    (fields : ∀ o acc rx ry l1rd l1i l1m l2rd l2i l2m c,
      fieldsOf (mk o acc rx ry l1rd l1i l1m l2rd l2i l2m c) =
        emitMacLdLd macop o acc rx ry l1rd l1i l1m l2rd l2i l2m c := by intros; rfl)
    (wf : ∀ o acc rx ry l1rd l1i l1m l2rd l2i l2m c,
      mk o acc rx ry l1rd l1i l1m l2rd l2i l2m c = i → i.wf = true := by intros; subst_vars; rfl) :
    IsWordOf i w := by
  simp only [asMacLdLd, withCond_ok, Except.ok.injEq] at h
  obtain ⟨c, cond, rfl⟩ := h
  subst sub
  refine isWordOf_of_tiles (wf _ _ _ _ _ _ _ _ _ _ _ rfl) ?_
  simp only [fields, emitMacLdLd, Tiles, single, shape, Cond.code_of cond, totalWidth_cons,
    totalWidth_nil, fld_mod, code_macOpt1, val_fFin8, val_fFin4, -Nat.reducePow]
  decide

theorem asShiftSt_word {shop : Nat}
    {mk : Reg → Reg → Reg → Reg8 → Ix4 → Ix4 → Cond → Instr}
    (single : fld w 31 1 = 1) (shape : fld w 29 2 = 3) (sub : fld w 28 1 = shop)
    (h : asShiftSt w mk = .ok i)
    (fields : ∀ rd rx ry srs si sm c,
      fieldsOf (mk rd rx ry srs si sm c) = emitShiftSt shop rd rx ry srs si sm c := by
        intros; rfl)
    (wf : ∀ rd rx ry srs si sm c,
      mk rd rx ry srs si sm c = i → i.wf = true := by intros; subst_vars; rfl) :
    IsWordOf i w := by
  simp only [asShiftSt, asAluLd, withPad_ok, withCond_ok, Except.ok.injEq] at h
  obtain ⟨pad, c, cond, rfl⟩ := h
  subst sub
  refine isWordOf_of_tiles (wf _ _ _ _ _ _ _ rfl) ?_
  simp only [fields, emitShiftSt, Tiles, single, shape, pad, Cond.code_of cond, totalWidth_cons,
    totalWidth_nil, fld_mod, val_fReg, val_fFin8, val_fFin4, -Nat.reducePow]
  decide

theorem withPairs_word {k : Decoded} (h : withPairs k = .ok i)
    (word : k = .ok i → i.wf = true → IsWordOf i w) : IsWordOf i w := by
  obtain ⟨h, wf⟩ := (withPairs_ok k i).mp h
  exact word h wf

end Templates

/-! ## The opcode map -/

/-- Every row of the single-issue map (R146): the rows of the common templates, in their order, then the
rows that have a template of their own. -/
theorem decodeSingle_word {w : IWord} {opc : Nat} {i : Instr} (top : HasOpcode w opc)
    (h : decodeSingle w opc = .ok i) : IsWordOf i w := by
  unfold decodeSingle at h
  split at h
  case h_1 | h_2 | h_3 | h_4 => exact asT0_word top h
  case h_5 | h_6 => exact asBr_word top h
  case h_9 | h_10 | h_11 | h_12 | h_13 | h_14 | h_15 | h_20 | h_21 | h_22 | h_23 =>
    exact asR3_word top h
  case h_16 | h_17 | h_18 | h_19 => exact asR2_word top h
  case h_24 | h_25 | h_26 | h_27 | h_28 | h_29 | h_30 | h_31 | h_32 => exact asRI_word top h
  case h_33 | h_34 =>
    exact withPairs_word h fun h wf => asR3_word top h (wf := fun _ _ _ _ _ => wf)
  case h_35 | h_36 | h_37 | h_38 =>
    exact withPairs_word h fun h wf => asR2_word top h (wf := fun _ _ _ _ => wf)
  case h_39 | h_40 | h_41 => exact asMac_word top h
  case h_42 | h_43 | h_44 =>
    exact withPairs_word h fun h wf => asMacC_word top h (wf := fun _ _ _ _ _ _ _ => wf)
  case h_55 | h_56 => exact asLsa_word top h
  case h_57 | h_58 => exact withPairs_word h fun h wf => asLsa_word top h (wf := fun _ _ _ => wf)
  case h_59 | h_60 | h_63 | h_64 => exact asLsm_word top h
  case h_61 | h_62 | h_65 | h_66 =>
    exact withPairs_word h fun h wf => asLsm_word top h (wf := fun _ _ _ _ _ => wf)
  case h_67 | h_68 | h_71 | h_72 => exact asLsi_word top h
  case h_69 | h_70 | h_73 | h_74 =>
    exact withPairs_word h fun h wf => asLsi_word top h (wf := fun _ _ _ _ _ => wf)
  all_goals obtain ⟨single, opcode⟩ := top
  · simp only [asRet, withPad_ok, withCond_ok, Except.ok.injEq] at h
    obtain ⟨pad, c, cond, rfl⟩ := h
    refine isWordOf_of_tiles rfl ?_
    simp only [fieldsOf, Tiles, single, opcode, pad, Cond.code_of cond, totalWidth_cons,
      totalWidth_nil, fld_mod, -Nat.reducePow]
    decide
  · simp only [asDo, withPad_ok, withTerm_ok, Except.ok.injEq] at h
    obtain ⟨pad, t, term, rfl⟩ := h
    refine isWordOf_of_tiles rfl ?_
    simp only [fieldsOf, Tiles, single, opcode, pad, Term.code_of term, totalWidth_cons,
      totalWidth_nil, fld_mod, toNat_fBits, -Nat.reducePow]
    decide
  · simp only [withPad_ok, withView_ok, withCond_ok, Except.ok.injEq] at h
    obtain ⟨pad, v, view, c, cond, rfl⟩ := h
    refine isWordOf_of_tiles rfl ?_
    simp only [fieldsOf, Tiles, single, opcode, pad, View.code_of view, Cond.code_of cond,
      totalWidth_cons, totalWidth_nil, fld_mod, val_fFin8, val_fReg, -Nat.reducePow]
    decide
  · simp only [withPad_ok, withView_ok, withCond_ok, Except.ok.injEq] at h
    obtain ⟨pad, v, view, c, cond, rfl⟩ := h
    refine isWordOf_of_tiles rfl ?_
    simp only [fieldsOf, Tiles, single, opcode, pad, View.code_of view, Cond.code_of cond,
      totalWidth_cons, totalWidth_nil, fld_mod, val_fFin8, val_fReg, -Nat.reducePow]
    decide
  · simp only [withPad_ok, withCond_ok, Except.ok.injEq] at h
    obtain ⟨pad, c, cond, rfl⟩ := h
    refine isWordOf_of_tiles rfl ?_
    simp only [fieldsOf, Tiles, single, opcode, pad, Cond.code_of cond, totalWidth_cons,
      totalWidth_nil, fld_mod, val_fFin8, -Nat.reducePow]
    decide
  · simp only [withPad_ok, withCond_ok, Except.ok.injEq] at h
    obtain ⟨pad, c, cond, rfl⟩ := h
    refine isWordOf_of_tiles rfl ?_
    simp only [fieldsOf, Tiles, single, opcode, pad, Cond.code_of cond, totalWidth_cons,
      totalWidth_nil, fld_mod, code_gclass, val_fFin8, val_fReg, -Nat.reducePow]
    decide
  · simp only [withPad_ok, withCond_ok, Except.ok.injEq] at h
    obtain ⟨pad, c, cond, rfl⟩ := h
    refine isWordOf_of_tiles rfl ?_
    simp only [fieldsOf, Tiles, single, opcode, pad, Cond.code_of cond, totalWidth_cons,
      totalWidth_nil, fld_mod, code_gclass, val_fFin8, val_fReg, -Nat.reducePow]
    decide
  · simp only [withPad_ok, withCtl_ok, withCond_ok, Except.ok.injEq] at h
    obtain ⟨pad, x, ctl, c, cond, rfl⟩ := h
    refine isWordOf_of_tiles rfl ?_
    simp only [fieldsOf, Tiles, single, opcode, pad, Ctl.code_of ctl, Cond.code_of cond,
      totalWidth_cons, totalWidth_nil, fld_mod, val_fReg, -Nat.reducePow]
    decide
  · simp only [withPad_ok, withCtl_ok, withCond_ok, Except.ok.injEq] at h
    obtain ⟨pad, x, ctl, c, cond, rfl⟩ := h
    refine isWordOf_of_tiles rfl ?_
    simp only [fieldsOf, Tiles, single, opcode, pad, Ctl.code_of ctl, Cond.code_of cond,
      totalWidth_cons, totalWidth_nil, fld_mod, val_fReg, -Nat.reducePow]
    decide
  · simp only [withPad_ok, withCond_ok, Except.ok.injEq] at h
    obtain ⟨pad, c, cond, rfl⟩ := h
    refine isWordOf_of_tiles rfl ?_
    simp only [fieldsOf, Tiles, single, opcode, pad, Cond.code_of cond, totalWidth_cons,
      totalWidth_nil, fld_mod, val_fReg, toNat_fBits, -Nat.reducePow]
    decide
  · simp only [withPad_ok, Except.ok.injEq] at h
    obtain ⟨pad, rfl⟩ := h
    refine isWordOf_of_tiles rfl ?_
    simp only [fieldsOf, Tiles, single, opcode, pad, totalWidth_cons, totalWidth_nil, fld_mod,
      code_gclass, val_fFin8, toNat_fBits, -Nat.reducePow]
    decide
  · simp only [withPad_ok, withCtl_ok, Except.ok.injEq] at h
    obtain ⟨pad, x, ctl, rfl⟩ := h
    refine isWordOf_of_tiles rfl ?_
    simp only [fieldsOf, Tiles, single, opcode, pad, Ctl.code_of ctl, totalWidth_cons,
      totalWidth_nil, fld_mod, toNat_fBits, -Nat.reducePow]
    decide
  · cases h

/-- Every row of the bundle map (R147). -/
theorem decodeBundle_word {w : IWord} {shape : Nat} {i : Instr} (bundle : fld w 31 1 = 1)
    (hs : fld w 29 2 = shape) (h : decodeBundle w shape = .ok i) : IsWordOf i w := by
  have fits : shape < 4 := hs ▸ fld_lt w 29 2
  unfold decodeBundle at h
  split at h
  · split at h
    any_goals exact asAluLd_word bundle hs (by assumption) h
    cases h
  · split at h
    any_goals exact asMacLd_word bundle hs (by assumption) h
    cases h
  · split at h
    any_goals exact asMacLdLd_word bundle hs (by assumption) h
    cases h
  · rename_i not0 not1 not2
    obtain rfl : shape = 3 := by
      simp only [imp_false] at not0 not1 not2
      omega
    have bit := fld_lt w 28 1
    split at h
    · exact asShiftSt_word bundle hs (by assumption) h
    · rename_i set
      simp only [imp_false] at set
      exact asShiftSt_word bundle hs (by omega : fld w 28 1 = 1) h

/-- Decoding goes by the first bit: the single-issue map or the bundle map. -/
theorem decode_word {w : IWord} {i : Instr} (h : decode w = .ok i) : IsWordOf i w := by
  have bit := fld_lt w 31 1
  unfold decode at h
  split at h
  case isTrue single => exact decodeSingle_word ⟨single, rfl⟩ h
  case isFalse single => exact decodeBundle_word (by omega) rfl h

/-- Settles O2: the two opcode maps, row by row. -/
theorem encodeOfDecode : Obligations.EncodeOfDecode := fun _ _ h =>
  ⟨(decode_word h).wf, (decode_word h).word⟩

end Sys2Proof
end

section
/-! PROOFS. The format table (spec/30_encoding.md R101, R104, R108): what a word's fixed bits say of its
fields, and the format of an identifier; then words written out in the spec. -/

namespace Sys2Proof

/-! ## Fixed bits -/

/-- Where the mask of a format covers a field, a word of the format has the pattern's value there. -/
theorem fld_of_holds {f : Format} {w : IWord} (h : f.holds w = true) (lo n : Nat)
    (covered : fld f.mask lo n = 2 ^ n - 1) : fld w lo n = fld f.pattern lo n := by
  rw [Format.holds, beq_iff_eq] at h
  have both : fld (w &&& f.mask) lo n = fld w lo n &&& fld f.mask lo n := by
    simp only [fld, BitVec.toNat_and, Nat.and_div_two_pow, Nat.and_mod_two_pow]
  rw [← h, both, covered, Nat.and_two_pow_sub_one_eq_mod, fld_mod]

/-- The identifier that the opcode fields of a word spell (R104). -/
def spelledId (w : IWord) : Nat :=
  if fld w 31 1 = 0 then fld w 24 7
  else 0x80 + 0x10 * fld w 29 2 +
    (if fld w 29 2 = 0 then fld w 26 3 else if fld w 29 2 = 3 then fld w 28 1 else fld w 27 2)

/-- The mask of a format covers the fields that spell the identifier of its pattern, and the pattern
spells the identifier of the format. -/
def Format.spelled (f : Format) : Bool :=
  fld f.mask 31 1 == 1 && spelledId f.pattern == f.id &&
    (if fld f.pattern 31 1 = 0 then fld f.mask 24 7 == 127
     else fld f.mask 29 2 == 3 &&
      (if fld f.pattern 29 2 = 0 then fld f.mask 26 3 == 7
       else if fld f.pattern 29 2 = 3 then fld f.mask 28 1 == 1 else fld f.mask 27 2 == 3))

theorem formatOf_spelled (i : Instr) : (formatOf i).spelled = true := by
  cases i <;> simp only [formatOf] <;> decide

theorem spelledId_of_holds {i : Instr} {w : IWord} (h : (formatOf i).holds w = true) :
    spelledId w = (formatOf i).id := by
  have spelled := formatOf_spelled i
  simp only [Format.spelled, Bool.and_eq_true, beq_iff_eq] at spelled
  obtain ⟨⟨first, id⟩, rest⟩ := spelled
  rw [← id, spelledId, spelledId, fld_of_holds h 31 1 first]
  split at rest
  · rename_i single
    rw [if_pos single, if_pos single, fld_of_holds h 24 7 (by simpa using rest)]
  · rename_i bundle
    rw [Bool.and_eq_true, beq_iff_eq] at rest
    obtain ⟨shape, sub⟩ := rest
    rw [if_neg bundle, if_neg bundle, fld_of_holds h 29 2 shape]
    split at sub
    · rename_i alu
      rw [if_pos alu, if_pos alu, fld_of_holds h 26 3 (by simpa using sub)]
    · rename_i notAlu
      rw [if_neg notAlu, if_neg notAlu]
      split at sub
      · rename_i shift
        rw [if_pos shift, if_pos shift, fld_of_holds h 28 1 (by simpa using sub)]
      · rename_i mac
        rw [if_neg mac, if_neg mac, fld_of_holds h 27 2 (by simpa using sub)]

/-! ## The format of an identifier -/

/-- A word with this identifier in its opcode fields and operand fields that are zero, but for `term`
and `view`, where zero is reserved. -/
def sampleWord (id : Nat) : IWord :=
  if id < 0x80 then
    BitVec.ofNat 32 (id * 2 ^ 24 + if id = 0x0B then 0xF else if id = 0x48 ∨ id = 0x49 then 0x3180 else 0)
  else
    let shape := id / 0x10 % 8
    BitVec.ofNat 32 (2 ^ 31 + shape * 2 ^ 29 +
      id % 0x10 * (if shape = 0 then 2 ^ 26 else if shape = 3 then 2 ^ 28 else 2 ^ 27))

/-- The format of the word made up from an identifier. -/
def formatWithId (id : Nat) : Option Format :=
  match decode (sampleWord id) with
  | .ok i => some (formatOf i)
  | .error _ => none

theorem formatWithId_id (i : Instr) : formatWithId (formatOf i).id = some (formatOf i) := by
  cases i <;> simp only [formatOf] <;> decide

/-- The identifier tells the format. -/
theorem formatOf_eq_of_id {i j : Instr} (h : (formatOf i).id = (formatOf j).id) :
    formatOf i = formatOf j :=
  Option.some.inj (by rw [← formatWithId_id i, ← formatWithId_id j, h])

/-- The word of every instruction belongs to its format, in the order of the opcode maps. -/
theorem formatOf_holds_encode (i : Instr) : (formatOf i).holds (encode i) = true := by
  cases i
  case nop => exact Laws.FormatBits.nop
  case reset => exact Laws.FormatBits.reset
  case pushSts => exact Laws.FormatBits.pushSts
  case popSts => exact Laws.FormatBits.popSts
  case jump => exact Laws.FormatBits.jump _ _
  case call => exact Laws.FormatBits.call _ _
  case rts => exact Laws.FormatBits.rts _
  case doUntil => exact Laws.FormatBits.doUntil _ _
  case addRRR => exact Laws.FormatBits.addRRR _ _ _ _
  case addcRRR => exact Laws.FormatBits.addcRRR _ _ _ _
  case subRRR => exact Laws.FormatBits.subRRR _ _ _ _
  case subbRRR => exact Laws.FormatBits.subbRRR _ _ _ _
  case andRRR => exact Laws.FormatBits.andRRR _ _ _ _
  case orRRR => exact Laws.FormatBits.orRRR _ _ _ _
  case xorRRR => exact Laws.FormatBits.xorRRR _ _ _ _
  case notRR => exact Laws.FormatBits.notRR _ _ _
  case absRR => exact Laws.FormatBits.absRR _ _ _
  case negRR => exact Laws.FormatBits.negRR _ _ _
  case cpRR => exact Laws.FormatBits.cpRR _ _ _
  case ashiftRRR => exact Laws.FormatBits.ashiftRRR _ _ _ _
  case lshiftRRR => exact Laws.FormatBits.lshiftRRR _ _ _ _
  case divsRRR => exact Laws.FormatBits.divsRRR _ _ _ _
  case divqRRR => exact Laws.FormatBits.divqRRR _ _ _ _
  case addRRI => exact Laws.FormatBits.addRRI _ _ _ _
  case addcRRI => exact Laws.FormatBits.addcRRI _ _ _ _
  case subRRI => exact Laws.FormatBits.subRRI _ _ _ _
  case subbRRI => exact Laws.FormatBits.subbRRI _ _ _ _
  case andRRI => exact Laws.FormatBits.andRRI _ _ _ _
  case orRRI => exact Laws.FormatBits.orRRI _ _ _ _
  case xorRRI => exact Laws.FormatBits.xorRRI _ _ _ _
  case ashiftRRI => exact Laws.FormatBits.ashiftRRI _ _ _ _
  case lshiftRRI => exact Laws.FormatBits.lshiftRRI _ _ _ _
  case addC => exact Laws.FormatBits.addC _ _ _ _
  case subC => exact Laws.FormatBits.subC _ _ _ _
  case conjC => exact Laws.FormatBits.conjC _ _ _
  case polarC => exact Laws.FormatBits.polarC _ _ _
  case rectC => exact Laws.FormatBits.rectC _ _ _
  case cpC => exact Laws.FormatBits.cpC _ _ _
  case mpy => exact Laws.FormatBits.mpy _ _ _ _ _
  case mac => exact Laws.FormatBits.mac _ _ _ _ _
  case mas => exact Laws.FormatBits.mas _ _ _ _ _
  case mpyC => exact Laws.FormatBits.mpyC _ _ _ _ _ _
  case macC => exact Laws.FormatBits.macC _ _ _ _ _ _
  case masC => exact Laws.FormatBits.masC _ _ _ _ _ _
  case cpVR => exact Laws.FormatBits.cpVR _ _ _ _
  case cpRV => exact Laws.FormatBits.cpRV _ _ _ _
  case cpAA => exact Laws.FormatBits.cpAA _ _ _
  case cpGR => exact Laws.FormatBits.cpGR _ _ _ _
  case cpRG => exact Laws.FormatBits.cpRG _ _ _ _
  case cpCR => exact Laws.FormatBits.cpCR _ _ _
  case cpRC => exact Laws.FormatBits.cpRC _ _ _
  case ldRI => exact Laws.FormatBits.ldRI _ _ _
  case ldGI => exact Laws.FormatBits.ldGI _ _ _
  case ldCI => exact Laws.FormatBits.ldCI _ _
  case ldAbs => exact Laws.FormatBits.ldAbs _ _
  case stAbs => exact Laws.FormatBits.stAbs _ _
  case ldCAbs => exact Laws.FormatBits.ldCAbs _ _
  case stCAbs => exact Laws.FormatBits.stCAbs _ _
  case ldPostM => exact Laws.FormatBits.ldPostM _ _ _ _
  case stPostM => exact Laws.FormatBits.stPostM _ _ _ _
  case ldCPostM => exact Laws.FormatBits.ldCPostM _ _ _ _
  case stCPostM => exact Laws.FormatBits.stCPostM _ _ _ _
  case ldPreM => exact Laws.FormatBits.ldPreM _ _ _ _
  case stPreM => exact Laws.FormatBits.stPreM _ _ _ _
  case ldCPreM => exact Laws.FormatBits.ldCPreM _ _ _ _
  case stCPreM => exact Laws.FormatBits.stCPreM _ _ _ _
  case ldPostI => exact Laws.FormatBits.ldPostI _ _ _ _
  case stPostI => exact Laws.FormatBits.stPostI _ _ _ _
  case ldCPostI => exact Laws.FormatBits.ldCPostI _ _ _ _
  case stCPostI => exact Laws.FormatBits.stCPostI _ _ _ _
  case ldPreI => exact Laws.FormatBits.ldPreI _ _ _ _
  case stPreI => exact Laws.FormatBits.stPreI _ _ _ _
  case ldCPreI => exact Laws.FormatBits.ldCPreI _ _ _ _
  case stCPreI => exact Laws.FormatBits.stCPreI _ _ _ _
  case addLd => exact Laws.FormatBits.addLd _ _ _ _ _ _ _
  case addcLd => exact Laws.FormatBits.addcLd _ _ _ _ _ _ _
  case subLd => exact Laws.FormatBits.subLd _ _ _ _ _ _ _
  case subbLd => exact Laws.FormatBits.subbLd _ _ _ _ _ _ _
  case andLd => exact Laws.FormatBits.andLd _ _ _ _ _ _ _
  case orLd => exact Laws.FormatBits.orLd _ _ _ _ _ _ _
  case xorLd => exact Laws.FormatBits.xorLd _ _ _ _ _ _ _
  case mpyLd => exact Laws.FormatBits.mpyLd _ _ _ _ _ _ _ _
  case macLd => exact Laws.FormatBits.macLd _ _ _ _ _ _ _ _
  case masLd => exact Laws.FormatBits.masLd _ _ _ _ _ _ _ _
  case mpyLdLd => exact Laws.FormatBits.mpyLdLd _ _ _ _ _ _ _ _ _ _ _
  case macLdLd => exact Laws.FormatBits.macLdLd _ _ _ _ _ _ _ _ _ _ _
  case masLdLd => exact Laws.FormatBits.masLdLd _ _ _ _ _ _ _ _ _ _ _
  case ashiftSt => exact Laws.FormatBits.ashiftSt _ _ _ _ _ _ _
  case lshiftSt => exact Laws.FormatBits.lshiftSt _ _ _ _ _ _ _

/-- Settles O3: both formats of a word have the identifier that the word spells; a word that decodes is
the word of its instruction, which belongs to the instruction's format. -/
theorem formatTable : Obligations.FormatTable := by
  refine ⟨fun w i j hi hj => ?_, fun w i h => ?_⟩
  · exact formatOf_eq_of_id ((spelledId_of_holds hi).symm.trans (spelledId_of_holds hj))
  · have holds : (formatOf i).holds w = true := (decode_word h).word ▸ formatOf_holds_encode i
    have id := spelledId_of_holds holds
    refine ⟨holds, fun single => ?_, fun bundle => ?_⟩
    · rw [← id, spelledId, if_pos single]
    · rw [← id, spelledId, if_neg (by omega)]

/-! ## Words written out -/

/-- Settles O4: each word by evaluation of the decoder. -/
theorem specWordsDecode : Obligations.SpecWordsDecode := by
  unfold Obligations.SpecWordsDecode
  refine ⟨?_, ?_, ?_, ?_, ?_, ?_, ?_, ?_, ?_, ?_, ?_, ?_⟩ <;> decide

end Sys2Proof
end

section
/-! PROOFS. One step (spec/45_control_flow.md R340, R341): what a step of any state is, said once, and the
statements that are this or one branch of `NextCode`. -/

namespace Sys2Proof.Machine

/-! ## What a step is -/

theorem step_halted {s : State} (h : s.halted = true) : step s = .next s := by simp [step, h]

theorem step_noWord {s : State} (h : s.halted = false) (hw : imWord s s.pc = none) :
    step s = .next (endOfRun s) := by simp [step, h, hw]

theorem step_illegal {s : State} {w : IWord} {e : Illegal} (h : s.halted = false)
    (hw : imWord s s.pc = some w) (hd : decode w = .error e) :
    step s = .next (illegalWord s w) := by simp [step, h, hw, hd]

theorem step_legal {s : State} {w : IWord} {i : Instr} (h : s.halted = false)
    (hw : imWord s s.pc = some w) (hd : decode w = .ok i) : step s = exec i s := by
  simp [step, h, hw, hd]

/-- Everything a step can be: a halted block, the end of the run, an illegal word, an instruction. -/
inductive StepOf (s : State) : State → Prop
  | halted : s.halted = true → StepOf s s
  | noWord : s.halted = false → imWord s s.pc = none → StepOf s (endOfRun s)
  | illegal (w : IWord) (e : Illegal) : s.halted = false → imWord s s.pc = some w →
      decode w = .error e → StepOf s (illegalWord s w)
  | legal (w : IWord) (i : Instr) {t : State} : s.halted = false → imWord s s.pc = some w →
      decode w = .ok i → exec i s = .next t → StepOf s t

theorem step_total (s : State) : ∃ t, step s = .next t ∧ StepOf s t := by
  cases h : s.halted with
  | true => exact ⟨_, step_halted h, .halted h⟩
  | false =>
    cases hw : imWord s s.pc with
    | none => exact ⟨_, step_noWord h hw, .noWord h hw⟩
    | some w =>
      cases hd : decode w with
      | error e => exact ⟨_, step_illegal h hw hd, .illegal w e h hw hd⟩
      | ok i => exact ⟨_, by rw [step_legal h hw hd, exec_eq], .legal w i h hw hd (exec_eq i s)⟩

theorem step_cases {s t : State} (h : step s = .next t) : StepOf s t := by
  obtain ⟨u, hu, hs⟩ := step_total s
  rw [h] at hu
  cases hu
  exact hs

/-! ## The first statements about the step -/

/-- Settles O9: the branches of `step`. -/
theorem stepAlwaysCompletes : Obligations.StepAlwaysCompletes := fun s =>
  ⟨(step_total s).imp fun _ h => h.1, step_halted, step_noWord⟩

/-- Settles O10: the last branch of `step`. -/
theorem stepRunsDecodedInstruction : Obligations.StepRunsDecodedInstruction :=
  fun _ _ _ => step_legal

/-- The record an error leaves. -/
theorem retire_raised_log (k : WordClass) (s : State) (cls : ErrorClass) (info : ErrorInfo) :
    (retire k s (.raised cls info)).errLog = s.errLog ++ [⟨cls, s.pc, info⟩] := by
  simp [retire, raiseError]

/-- Settles O11: an illegal word retires as a raised `E_SHAPE`. -/
theorem illegalWordIsShapeError : Obligations.IllegalWordIsShapeError := by
  intro s w h hw hd
  cases hdec : decode w with
  | ok i => exact absurd hdec (hd i)
  | error e =>
    exact ⟨_, step_illegal h hw hdec, retire_raised _ _ _ _, retire_raised_log _ _ _ _⟩

/-! ## The cases of `NextCode` -/

theorem nextCode_pending (s : State) (g : Option Addr) :
    nextCode s true g = { s with dsPending := false, pc := s.dsTarget } := rfl

theorem nextCode_slot (s : State) (a : Addr) (h : s.params.delaySlot = true) :
    nextCode s false (some a) = { s with dsPending := true, dsTarget := a, pc := s.pc + 1 } := by
  simp [nextCode, h]

theorem nextCode_taken (s : State) (a : Addr) (h : s.params.delaySlot = false) :
    nextCode s false (some a) = { s with pc := a } := by
  simp [nextCode, h]

theorem nextCode_sequential (s : State) (h : ∀ e rest, s.lpStk = e :: rest → s.pc ≠ e.last) :
    nextCode s false none = { s with pc := s.pc + 1 } := by
  cases hl : s.lpStk with
  | nil => simp [nextCode, loopStep, hl]
  | cons e rest => simp [nextCode, loopStep, hl, h e rest hl]

section LoopEnd

variable {s : State} {e : LoopEntry} {rest : List LoopEntry} (hl : s.lpStk = e :: rest)
  (he : s.pc = e.last)
include hl he

theorem nextCode_forever (hf : e.forever = true) :
    nextCode s false none = { s with pc := e.first } := by
  simp [nextCode, loopStep, hl, he, hf]

theorem nextCode_done (hf : e.forever = false) (hc : e.count - 1 = 0) :
    nextCode s false none = { s with lpStk := rest, pc := s.pc + 1 } := by
  have hc : e.count - 1#16 = 0#16 := hc
  simp [nextCode, loopStep, hl, he, hf, hc]

theorem nextCode_again (hf : e.forever = false) (hc : e.count - 1 ≠ 0) :
    nextCode s false none =
      { s with lpStk := { e with count := e.count - 1 } :: rest, pc := e.first } := by
  have hc : ¬e.count - 1#16 = 0#16 := hc
  simp [nextCode, loopStep, hl, he, hf, hc]

end LoopEnd

/-- Settles O12: one rewriting rule of `nextCode` per case. -/
theorem nextCodeCases : Obligations.NextCodeCases := by
  intro s taken
  simp only [nextCode_pending, true_and]
  refine ⟨fun a h => ?_, fun a h => ?_, fun e rest hl he hf => ?_,
    fun e rest hl he hf hc => ?_, fun e rest hl he hf hc => ?_, fun h => ?_⟩
  · rw [nextCode_slot s a h]; exact ⟨rfl, rfl, rfl, rfl⟩
  · rw [nextCode_taken s a h]; exact ⟨rfl, rfl⟩
  · rw [nextCode_forever hl he hf]; exact ⟨rfl, rfl⟩
  · rw [nextCode_done hl he hf hc]; exact ⟨rfl, rfl⟩
  · rw [nextCode_again hl he hf hc]; exact ⟨rfl, rfl⟩
  · rw [nextCode_sequential s h]; exact ⟨rfl, rfl⟩

end Sys2Proof.Machine
end

section
/-! PROOFS. The shared operations: conditions (spec/30_encoding.md R112), flag writes (40_alu.md R184), data
memory (20_memory.md R76 to R78), addresses and circular buffers (R80 to R85), the reset state. -/

namespace Sys2Proof.Machine

/-! ## Conditions and flags -/

/-- Settles O22: `condHolds` branch by branch, a Boolean equation between flags. -/
theorem conditionTable : Obligations.ConditionTable := by
  refine ⟨by decide, fun b => ?_⟩
  simp only [condHolds, flagOf, Flag.bit]
  generalize b.getLsbD 0 = z, b.getLsbD 1 = n, b.getLsbD 2 = v, b.getLsbD 3 = c, b.getLsbD 6 = m
  refine ⟨trivial, ?_, ?_, ?_, ?_, ?_, trivial, ?_, trivial, ?_, trivial, ?_, trivial⟩
  · simp
  · simp
  · simp
  · simp
  · cases z <;> simp
  · simp
  · simp
  · simp

/-- The sticky partner of a flag, by name (10_state.md R35). -/
theorem sticky_eq_some (f g : Flag) :
    f.sticky = some g ↔ f = .av ∧ g = .avs ∨ f = .mv ∧ g = .mvs ∨ f = .sv ∧ g = .svs := by
  cases f <;> simp [Flag.sticky, eq_comm]

/-- Settles O24: `setFlags` is a fold of `writeFlag`. -/
theorem flagWriteRule : Obligations.FlagWriteRule := by
  intro b f g v ws
  refine ⟨rfl, rfl, ?_⟩
  rw [setFlags_cons, setFlags_nil, flagOf_writeFlag]
  simp only [sticky_eq_some, eq_comm (a := g)]
  cases v <;> simp

/-! ## Data memory -/

/-- Settles O28. -/
theorem memoryReadsLastWrite : Obligations.MemoryReadsLastWrite := by
  intro l mem a b v
  rw [dmRead_dmWrite]
  exact if_congr eq_comm rfl rfl

/-! ## Addresses -/

/-- The four outcomes of `next(k, mod)` (20_memory.md R84) as one equation. -/
theorem nextIndex_eq (s : State) (k : GIx) (mod : Addr) :
    nextIndex s k mod =
      if readG s .l k = 0 then readG s .i k + mod
      else if ((readG s .b k).toNat : Int) + (readG s .l k).toNat ≤
          (readG s .i k).toNat + mod.toInt then
        BitVec.ofInt 16 ((readG s .i k).toNat + mod.toInt - (readG s .l k).toNat)
      else if ((readG s .i k).toNat : Int) + mod.toInt < (readG s .b k).toNat then
        BitVec.ofInt 16 ((readG s .i k).toNat + mod.toInt + (readG s .l k).toNat)
      else BitVec.ofInt 16 ((readG s .i k).toNat + mod.toInt) := rfl

/-- Settles O29. -/
theorem nextIndexRule : Obligations.NextIndexRule := by
  intro s k mod
  refine ⟨fun hl => ?_, fun hl ht => ?_, fun hl ht hb => ?_, fun hl ht hb => ?_⟩
  · rw [nextIndex_eq, if_pos hl]
  · rw [nextIndex_eq, if_neg hl, if_pos ht]
  · rw [nextIndex_eq, if_neg hl, if_neg (not_le.mpr ht), if_pos hb]
  · rw [nextIndex_eq, if_neg hl, if_neg (not_le.mpr ht), if_neg (not_lt.mpr hb)]

/-- An integer that is an address is the value of its 16-bit word. -/
theorem toNat_ofInt16 (n : Int) (h0 : 0 ≤ n) (h1 : n < 65536) :
    ((BitVec.ofInt 16 n).toNat : Int) = n := by
  rw [BitVec.toNat_ofInt]
  omega

/-- Settles O30: after the one correction the exact index lies inside the buffer, so inside the address
space, and no wrap changes it. -/
theorem circularBufferStaysInside : Obligations.CircularBufferStaysInside := by
  intro s k mod i l b hbi hil hend hmax hmin
  have hl : readG s .l k ≠ 0 := by
    intro h
    have : l = 0 := by simp only [l, h]; rfl
    omega
  have inside : ∀ n : Int, (b : Int) ≤ n → n < b + l →
      b ≤ (BitVec.ofInt 16 n).toNat ∧ (BitVec.ofInt 16 n).toNat < b + l := by
    intro n h0 h1
    have := toNat_ofInt16 n (by omega) (by omega)
    omega
  rw [nextIndex_eq, if_neg hl]
  split
  · exact inside _ (by omega) (by omega)
  · split
    · exact inside _ (by omega) (by omega)
    · exact inside _ (by omega) (by omega)

/-- Settles O31: the modes one by one; the reversal is `BitVec.reverse`. -/
theorem effectiveAddresses : Obligations.EffectiveAddresses := by
  intro s k j a imm
  refine ⟨rfl, rfl, rfl, rfl, fun hm => ?_, fun hk => ?_, fun hm hk b hb => ?_⟩
  · simp [effAddr, postAddr, brev, hm, readG]
  · have : ¬k.val < 4 := by omega
    simp [effAddr, postAddr, this, readG]
  · have hrev : effAddr s (.postM k j) = (readG s .i k).reverse := by
      simp [effAddr, postAddr, brev, hm, hk, readG, bitrev16]
    rw [hrev, BitVec.getLsbD_reverse, BitVec.getMsbD_eq_getLsbD]
    simp [hb]

/-! ## The reset state -/

/-- Nothing is loaded or recorded after reset, so only the parameters have to be legal. -/
theorem inv_resetWith (p : Params) (h : p.legal = true) : (State.resetWith p).Inv where
  params := h
  dmForm n := (memWf_reset p n).1
  dmRange n := by simp [State.lane, State.resetWith, LaneState.reset, memBelow]
  imForm := rfl
  imRange := rfl
  pcDepth := Nat.zero_le _
  lpDepth := Nat.zero_le _
  stsDepth := Nat.zero_le _
  noLoopUnderflow := by simp [State.resetWith]
  noSlots _ := ⟨rfl, rfl⟩
  tally := rfl
  causes := rfl

/-- Settles O7. -/
theorem invariantAtReset : Obligations.InvariantAtReset :=
  ⟨inv_resetWith, inv_resetWith _ (by decide)⟩

end Sys2Proof.Machine
end

section
/-! PROOFS. Rules over all instructions: what a word can do to a lane, to the machine, to the error tally and
to the cycles, each read off the shapes of verdicts; then the invariant. -/

namespace Sys2Proof.Machine

/-! ## What a word can do to a lane -/

/-- What became of lane `n` in the state `t` a word wrote: nothing; the lane function of the word in a
selected lane; the flag bundles replaced by `POP STS` or `RESET`. -/
inductive LaneOutcome (i : Instr) (s t : State) (n : LaneId) : Prop
  | kept : t.lane n = s.lane n → LaneOutcome i s t n
  | written (f : LaneId → LaneState → LaneState) : laneSelected i s n = true → LaneEffect s i f →
      t.lane n = f n (s.lane n) → LaneOutcome i s t n
  | bundles (x : Bundles) : i = .popSts ∨ i = .reset → t.lane n = withBundles (s.lane n) x →
      LaneOutcome i s t n

theorem laneOutcome_mapMask {i : Instr} {s t : State} {k : Mask}
    {f : LaneId → LaneState → LaneState} (hk : ∀ n, laneSelected i s n = k.get n)
    (hf : LaneEffect s i f) (n : LaneId) (ht : t.lane n = (mapMask s k f).lane n) :
    LaneOutcome i s t n := by
  rw [lane_mapMask, ← hk] at ht
  cases h : laneSelected i s n with
  | false => exact .kept (by rw [ht, h]; rfl)
  | true => exact .written f h hf (by rw [ht, h]; rfl)

theorem verdict_lane {i : Instr} {s t : State} {g : Option Addr}
    (h : VerdictShape i s (.wrote t g)) (n : LaneId) : LaneOutcome i s t n := by
  generalize hv : Verdict.wrote t g = v at h
  cases h <;> cases hv
  case lanes k f hk hf => exact laneOutcome_mapMask hk hf n rfl
  case mem k f u1 u2 hk hf =>
    exact laneOutcome_mapMask hk hf n (by rw [applyPost_lane, applyPost_lane])
  case popStatus hi =>
    cases hs : s.stsStk with
    | nil => exact .kept (lane_congr (by simp [popStatus, hs]) n)
    | cons e rest =>
      exact .bundles (e.bundles.get n) (.inl hi) (by simp [popStatus, hs, State.lane])
  case reset hi => exact .bundles ⟨0, 0, 0⟩ (.inr hi) (by simp [softReset, State.lane])
  all_goals exact .kept (lane_congr (by simp) n)

/-- The same of a whole step: an error leaves every lane. -/
theorem exec_lane {i : Instr} {s t : State} (h : exec i s = .next t) (n : LaneId) :
    LaneOutcome i s t n := by
  have hs := verdict_cases i s
  rw [exec_next h]
  cases hv : verdictOf i s with
  | raised cls info => exact .kept ((retire_raised _ _ _ _).lanes n)
  | wrote u g =>
    rw [hv] at hs
    have hl := retire_wrote_lane (wordClass i) s u g n
    cases verdict_lane hs n with
    | kept e => exact .kept (hl.trans e)
    | written f hsel hf e => exact .written f hsel hf (hl.trans e)
    | bundles x hi e => exact .bundles x hi (hl.trans e)

/-- `POP STS` and `RESET` have no condition, so they select every lane (10_state.md R40). -/
theorem laneSelected_bundles {i : Instr} (h : i = .popSts ∨ i = .reset) (s : State) (n : LaneId) :
    laneSelected i s n = true := by
  rcases h with rfl | rfl <;> rfl

/-- Settles O14: of the three outcomes of a lane only the first leaves it unselected. -/
theorem unselectedLaneUnchanged : Obligations.UnselectedLaneUnchanged := by
  intro i s t n h hsel
  cases exec_lane h n with
  | kept e => exact e
  | written f hs => exact absurd (hsel.symm.trans hs) (by decide)
  | bundles x hi => exact absurd (hsel.symm.trans (laneSelected_bundles hi s n)) (by decide)

/-- Settles O18: a lane function keeps the sticky bits but for the whole-bundle writes. -/
theorem stickyBitsStay : Obligations.StickyBitsStay := by
  intro i s t n f h hf hcp hld hpop hreset
  cases exec_lane h n with
  | kept e => rw [e]; exact ⟨id, id, id⟩
  | written g _ hg e => rw [e]; exact hg.sticky hcp hld n _ f hf
  | bundles x hi => exact absurd hi (by simp [hpop, hreset])

/-! ## The machine, the error tally, the cycles -/

/-- A step of an instruction is an error step or a completed word. -/
inductive ExecOf (i : Instr) (s : State) : State → Prop
  | raised (cls : ErrorClass) (info : ErrorInfo) : info.fits cls = true →
      ExecOf i s (retire (wordClass i) s (.raised cls info))
  | wrote (u : State) (g : Option Addr) : VerdictShape i s (.wrote u g) → Untouched s u →
      ExecOf i s (retire (wordClass i) s (.wrote u g))

theorem exec_cases {i : Instr} {s t : State} (h : exec i s = .next t) : ExecOf i s t := by
  have hs := verdict_cases i s
  rw [exec_next h]
  cases hv : verdictOf i s with
  | raised cls info =>
    rw [hv] at hs
    cases hs with
    | raised _ _ hfit => exact .raised cls info hfit
  | wrote u g =>
    rw [hv] at hs
    exact .wrote u g hs (verdict_untouched hs rfl)

/-- Settles O17. -/
theorem programMemoryNeverWritten : Obligations.ProgramMemoryNeverWritten := by
  intro i s t h
  cases exec_cases h with
  | raised cls info => exact (retire_raised _ _ _ _).machine
  | wrote u g _ hu =>
    obtain ⟨hparams, him, hhalted⟩ := retire_wrote_machine (wordClass i) s u g
    exact ⟨hparams.trans hu.params, him.trans hu.im, hhalted.trans hu.halted⟩

theorem errCnt_wrote {s u : State} (hu : Untouched s u) (k : WordClass) (g : Option Addr) :
    (retire k s (.wrote u g)).errCnt = s.errCnt :=
  (retire_wrote_errors k s u g).errCnt.trans hu.errCnt

/-- Settles O16: a word that writes leaves the tally, and any other step is a raised error. -/
theorem errorsDiscardTheWord : Obligations.ErrorsDiscardTheWord := by
  intro s t h hne
  cases step_cases h with
  | halted => exact absurd rfl hne
  | noWord => exact absurd rfl hne
  | illegal w => exact ⟨.shape, retire_raised _ _ _ _⟩
  | legal w i _ _ _ hexec =>
    cases exec_cases hexec with
    | raised cls info => exact ⟨cls, retire_raised _ _ _ _⟩
    | wrote u g _ hu => exact absurd (errCnt_wrote hu _ g) hne

/-- Settles O19: the hazard class of a word is that of its format. -/
theorem cycleAccounting : Obligations.CycleAccounting := by
  intro i s t h herr
  obtain ⟨hload, hstore, hmult⟩ := wordClass_format i
  cases exec_cases h with
  | raised cls info =>
    exact absurd herr (by rw [(retire_raised _ _ _ _).count]; omega)
  | wrote u g _ hu =>
    obtain ⟨hcycles, hprev⟩ := retire_wrote_tally (wordClass i) s u g
    refine ⟨hprev.trans hstore, if (wordClass i).load && s.prevStore then 1 else 0,
      if (wordClass i).mult && !nextIsMultiply s then s.params.macTail else 0, ?_, ?_, ?_, ?_, ?_⟩
    · rw [hcycles, hu.cycles, latencyAdded, Nat.add_assoc (s.cycles + 1)]
    · simp [hload]
    · intro hm; simp [hmult, hm]
    · intro _ hfollows; simp [(nextIsMultiply_iff s).mpr hfollows]
    · intro hm hno
      have hno : nextIsMultiply s = false := by
        rw [← nextIsMultiply_iff] at hno; simpa using hno
      simp [hmult, hm, hno]

end Sys2Proof.Machine
end

section
/-! PROOFS. The invariant is kept by every part of a step, so by every step; and the status stack across a run
(spec/46_system.md R366). -/

namespace Sys2Proof.Machine

/-! ## The end of a step keeps the invariant -/

theorem State.Inv.tallied {s : State} (h : s.Inv) (added : Nat) (store : Bool) :
    (Machine.tally s added store).Inv := { h with }

theorem State.Inv.endOfRun {s : State} (h : s.Inv) : (Machine.endOfRun s).Inv := { h with }

theorem State.Inv.raiseError {s : State} (h : s.Inv) {cls : ErrorClass} {info : ErrorInfo}
    (hfit : info.fits cls = true) : (Machine.raiseError s cls info).Inv :=
  { h with
    tally := by simp [Machine.raiseError, h.tally]
    causes := by simpa [Machine.raiseError, hfit] using h.causes }

theorem State.Inv.loopStep {s : State} (h : s.Inv) : (Machine.loopStep s).Inv := by
  have hd := h.lpDepth
  unfold Machine.loopStep
  split
  · exact { h with }
  · rename_i e rest hl
    rw [hl, List.length_cons] at hd
    split
    · split
      · exact { h with }
      · split
        · exact { h with lpDepth := by dsimp only; omega }
        · exact { h with lpDepth := hd }
    · exact { h with }

theorem State.Inv.nextCode {s : State} (h : s.Inv) (wasDs : Bool) (g : Option Addr) :
    (Machine.nextCode s wasDs g).Inv := by
  unfold Machine.nextCode
  split
  · exact { h with noSlots := fun hd => ⟨rfl, (h.noSlots hd).2⟩ }
  · split
    · split
      · rename_i hslot
        exact { h with noSlots := fun hd => absurd (hslot.symm.trans hd) (by decide) }
      · exact { h with }
    · exact h.loopStep

theorem State.Inv.retire_raised {s : State} (h : s.Inv) (k : WordClass) {cls : ErrorClass}
    {info : ErrorInfo} (hfit : info.fits cls = true) : (retire k s (.raised cls info)).Inv :=
  ((h.raiseError hfit).tallied 0 false).nextCode s.dsPending none

theorem State.Inv.retire_wrote {u : State} (h : u.Inv) (k : WordClass) (s : State)
    (g : Option Addr) : (retire k s (.wrote u g)).Inv := (h.tallied _ _).nextCode _ _

/-! ## Every write of a word keeps the invariant -/

/-- The lanes of a written state: the invariant asks only for the form and the range of data memory. -/
theorem LaneOutcome.dm {i : Instr} {s t : State} {n : LaneId} (h : LaneOutcome i s t n) :
    (memWf (s.lane n).dm = true → memWf (t.lane n).dm = true) ∧
      (memBelow s.params.dmWords (s.lane n).dm = true →
        memBelow s.params.dmWords (t.lane n).dm = true) := by
  cases h with
  | kept e => rw [e]; exact ⟨id, id⟩
  | written f _ hf e => rw [e]; exact ⟨hf.form n _, hf.range n _⟩
  | bundles x _ e => rw [e]; exact ⟨id, id⟩

/-- The stacks and the status register of a written state are within the bounds of the invariant. -/
structure StacksInBounds (t : State) : Prop where
  pcDepth : t.pcStk.length ≤ 8
  lpDepth : t.lpStk.length ≤ 8
  stsDepth : t.stsStk.length ≤ 8
  noLoopUnderflow : t.sstat.getLsbD 3 = false

theorem State.Inv.stacks {s : State} (h : s.Inv) : StacksInBounds s := { h with }

theorem StacksInBounds.congr {s t : State} (h : StacksInBounds s) (h1 : t.pcStk = s.pcStk)
    (h2 : t.lpStk = s.lpStk) (h3 : t.stsStk = s.stsStk) (h4 : t.sstat = s.sstat) :
    StacksInBounds t := by
  obtain ⟨hpc, hlp, hsts, hunf⟩ := h
  exact ⟨by rwa [h1], by rwa [h2], by rwa [h3], by rwa [h4]⟩

theorem StacksInBounds.markStack {s : State} (h : StacksInBounds s) (bit : Nat) (hb : bit ≠ 3) :
    StacksInBounds (markStack s bit) :=
  { h with
    noLoopUnderflow := by
      rw [Machine.markStack, BitVec.getLsbD_or, h.noLoopUnderflow, BitVec.getLsbD_twoPow]
      simp [hb] }

theorem StacksInBounds.pushPc {s : State} (h : StacksInBounds s) (a : Addr) :
    StacksInBounds (pushPc s a) := by
  unfold Machine.pushPc stackDepth
  split
  · exact h.markStack 0 (by decide)
  · exact { h with pcDepth := by dsimp only [List.length_cons]; omega }

theorem StacksInBounds.pushLoop {s : State} (h : StacksInBounds s) (e : LoopEntry) :
    StacksInBounds (pushLoop s e) := by
  unfold Machine.pushLoop stackDepth
  split
  · exact h.markStack 2 (by decide)
  · exact { h with lpDepth := by dsimp only [List.length_cons]; omega }

theorem StacksInBounds.pushStatus {s : State} (h : StacksInBounds s) :
    StacksInBounds (pushStatus s) := by
  unfold Machine.pushStatus stackDepth
  split
  · exact h.markStack 4 (by decide)
  · exact { h with stsDepth := by dsimp only [List.length_cons]; omega }

theorem StacksInBounds.popStatus {s : State} (h : StacksInBounds s) :
    StacksInBounds (popStatus s) := by
  have hd := h.stsDepth
  unfold Machine.popStatus
  split
  · exact h.markStack 5 (by decide)
  · rename_i e rest hs
    rw [hs, List.length_cons] at hd
    exact { h with stsDepth := by dsimp only; omega }

theorem StacksInBounds.of_verdict {i : Instr} {s t : State} {g : Option Addr}
    (hs : StacksInBounds s) (h : VerdictShape i s (.wrote t g)) : StacksInBounds t := by
  generalize hv : Verdict.wrote t g = v at h
  cases h <;> cases hv
  case pushPc => exact hs.pushPc _
  case popPc a rest hstk =>
    have hd := hs.pcDepth
    rw [hstk, List.length_cons] at hd
    exact { hs with pcDepth := by dsimp only; omega }
  case underflow => exact hs.markStack 1 (by decide)
  case pushLoop => exact hs.pushLoop _
  case pushStatus => exact hs.pushStatus
  case popStatus => exact hs.popStatus
  case reset => exact ⟨Nat.zero_le _, Nat.zero_le _, Nat.zero_le _, by simp [softReset]⟩
  all_goals exact hs.congr (by simp) (by simp) (by simp) (by simp)

theorem State.Inv.of_verdict {i : Instr} {s t : State} {g : Option Addr} (h : s.Inv)
    (hv : VerdictShape i s (.wrote t g)) (hu : Untouched s t) : t.Inv :=
  { StacksInBounds.of_verdict h.stacks hv with
    params := by rw [hu.params]; exact h.params
    dmForm := fun n => (verdict_lane hv n).dm.1 (h.dmForm n)
    dmRange := fun n => by rw [hu.params]; exact (verdict_lane hv n).dm.2 (h.dmRange n)
    imForm := by rw [hu.im]; exact h.imForm
    imRange := by rw [hu.im]; exact h.imRange
    noSlots := by rw [hu.params, hu.dsPending, hu.dsTarget]; exact h.noSlots
    tally := by rw [hu.errCnt, hu.errLog]; exact h.tally
    causes := by rw [hu.errLog]; exact h.causes }

/-- Settles O8: the steps of `StepOf`, an instruction by the outcomes of `ExecOf`. -/
theorem stepKeepsInvariant : Obligations.StepKeepsInvariant := by
  intro s t h hstep
  cases step_cases hstep with
  | halted => exact h
  | noWord => exact h.endOfRun
  | illegal => exact h.retire_raised _ rfl
  | legal w i _ _ _ hexec =>
    cases exec_cases hexec with
    | raised cls info hfit => exact h.retire_raised _ hfit
    | wrote u g hv hu => exact (h.of_verdict hv hu).retire_wrote _ _ _

/-! ## The status stack across a run -/

/-- What a word can do to the status stack: keep or push, pop, clear. -/
theorem verdict_stsStk {i : Instr} {s t : State} {g : Option Addr}
    (h : VerdictShape i s (.wrote t g)) :
    s.stsStk <:+ t.stsStk ∨ (∃ e, s.stsStk = e :: t.stsStk) ∨ t.stsStk = [] := by
  generalize hv : Verdict.wrote t g = v at h
  cases h <;> cases hv
  case pushStatus =>
    left
    unfold pushStatus
    split
    · exact List.suffix_refl _
    · exact List.suffix_cons _ _
  case popStatus =>
    right
    cases hs : s.stsStk <;> simp [popStatus, hs]
  case reset => exact .inr (.inr rfl)
  all_goals exact .inl (by simp)

theorem step_stsStk {s t : State} (h : step s = .next t) :
    s.stsStk <:+ t.stsStk ∨ (∃ e, s.stsStk = e :: t.stsStk) ∨ t.stsStk = [] := by
  cases step_cases h with
  | halted => exact .inl (List.suffix_refl _)
  | noWord => exact .inl (List.suffix_refl _)
  | illegal w => exact .inl (by rw [illegalWord, (retire_raised _ _ _ _).stk.stsStk])
  | legal w i _ _ _ hexec =>
    cases exec_cases hexec with
    | raised => exact .inl (by rw [(retire_raised _ _ _ _).stk.stsStk])
    | wrote u g hv => rw [(retire_wrote_stacks _ _ u g).stsStk]; exact verdict_stsStk hv

/-- A step that ends with at least as many entries as the bottom part `k` has leaves `k` where it is. -/
theorem step_keeps_suffix {s t : State} {k : List StatusEntry} (h : step s = .next t)
    (hs : k <:+ s.stsStk) (hlen : k.length ≤ t.stsStk.length) : k <:+ t.stsStk := by
  rcases step_stsStk h with hpush | ⟨e, hpop⟩ | hclear
  · exact hs.trans hpush
  · rw [hpop] at hs
    rcases List.suffix_cons_iff.mp hs with heq | htail
    · rw [heq, List.length_cons] at hlen; omega
    · exact htail
  · rw [hclear] at hlen ⊢
    rw [List.eq_nil_of_length_eq_zero (Nat.le_zero.mp hlen)]

/-- The same of a run. -/
theorem run_keeps_suffix {run : Nat → State} {n : Nat} {k : List StatusEntry}
    (hstep : ∀ j, j < n → step (run j) = .next (run (j + 1)))
    (hlen : ∀ j, j ≤ n → k.length ≤ (run j).stsStk.length) (h0 : k <:+ (run 0).stsStk) :
    k <:+ (run n).stsStk := by
  have all : ∀ j, j ≤ n → k <:+ (run j).stsStk := by
    intro j
    induction j with
    | zero => exact fun _ => h0
    | succ j ih => exact fun hj => step_keeps_suffix (hstep j hj) (ih (by omega)) (hlen _ hj)
  exact all n le_rfl

theorem exec_pushSts_stsStk {s t : State} (h : exec .pushSts s = .next t)
    (hroom : s.stsStk.length < 8) : t.stsStk = statusEntry s :: s.stsStk := by
  have hroom : ¬stackDepth ≤ s.stsStk.length := by unfold stackDepth; omega
  rw [exec_next h]
  exact (retire_wrote_stacks _ _ _ _).stsStk.trans (by simp [pushStatus, hroom])

/-- What `POP STS` restores from a stack that is not empty. -/
theorem exec_popSts_restores {s t : State} {e : StatusEntry} {rest : List StatusEntry}
    (h : exec .popSts s = .next t) (hs : s.stsStk = e :: rest) :
    t.mstat = e.mstat ∧ t.stsStk = rest ∧
      ∀ n, t.lane n = withBundles (s.lane n) (e.bundles.get n) := by
  rw [exec_next h]
  refine ⟨(retire_wrote_control _ _ _ _).mstat.trans (by simp [popStatus, hs]),
    (retire_wrote_stacks _ _ _ _).stsStk.trans (by simp [popStatus, hs]),
    fun n => (retire_wrote_lane _ _ _ _ n).trans (by simp [popStatus, hs, State.lane])⟩

/-- Settles O20: the pushed entry stays at its place, so it is the entry popped. -/
theorem statusRoundTrip : Obligations.StatusRoundTrip := by
  intro s t u run n hroom hpush h0 hstep hlen hn hpop
  have hentry : statusEntry s :: s.stsStk <:+ (run n).stsStk :=
    run_keeps_suffix hstep hlen (by rw [h0, exec_pushSts_stsStk hpush hroom])
  obtain ⟨hmstat, hstk, hlanes⟩ :=
    exec_popSts_restores hpop (hentry.eq_of_length hn.symm).symm
  refine ⟨hmstat, hstk, fun l => ?_⟩
  rw [hlanes l]
  simp [statusEntry, bundlesOf]

end Sys2Proof.Machine
end

section
/-! PROOFS. Lanes do not interfere (spec/10_state.md R23); a counted loop runs its body as often as its count
says (spec/45_control_flow.md R341). -/

namespace Sys2Proof.Machine

/-! ## What a lane becomes -/

/-- Lane `n` at the end of a word with this verdict. -/
def laneAfter (s : State) (n : LaneId) : Verdict → LaneState
  | .raised _ _ => s.lane n
  | .wrote t _ => t.lane n

theorem retire_lane (k : WordClass) (s : State) (v : Verdict) (n : LaneId) :
    (retire k s v).lane n = laneAfter s n v := by
  cases v with
  | raised cls info => exact (retire_raised _ _ _ _).lanes n
  | wrote t g => exact retire_wrote_lane _ _ _ _ _

theorem laneAfter_mapMask (s : State) (k : Mask) (f : LaneId → LaneState → LaneState)
    (n : LaneId) :
    laneAfter s n (.wrote (mapMask s k f) none) = if k.get n then f n (s.lane n) else s.lane n :=
  lane_mapMask _ _ _ _

theorem laneAfter_memVerdict (cplx : Bool) (mode : Mode) (k : Mask) (s : State)
    (f : Addr → LaneId → LaneState → LaneState) (n : LaneId) :
    laneAfter s n (memVerdict cplx mode k s f) =
      match addrCheck s cplx (effAddr s mode) with
      | some _ => s.lane n
      | none => if k.get n then f (effAddr s mode) n (s.lane n) else s.lane n := by
  unfold memVerdict
  cases addrCheck s cplx (effAddr s mode) with
  | some info => rfl
  | none => simp [laneAfter, applyPost_lane]

/-- A control transfer writes no lane, whether its checks hold or not. -/
theorem laneAfter_checkedTransfer (s : State) (b : Bool) (v : Verdict) (n : LaneId)
    (h : laneAfter s n v = s.lane n) : laneAfter s n (checkedTransfer s b v) = s.lane n := by
  unfold checkedTransfer
  split
  · rfl
  · exact h

/-! The words that write no lane. -/

theorem laneAfter_jump (s : State) (off : BitVec 16) (c : Cond) (n : LaneId) :
    laneAfter s n (verdictOf (.jump off c) s) = s.lane n :=
  laneAfter_checkedTransfer _ _ _ _ (by split <;> rfl)

theorem laneAfter_call (s : State) (off : BitVec 16) (c : Cond) (n : LaneId) :
    laneAfter s n (verdictOf (.call off c) s) = s.lane n := by
  apply laneAfter_checkedTransfer
  split
  · exact lane_congr (by simp) n
  · rfl

theorem laneAfter_rts (s : State) (c : Cond) (n : LaneId) :
    laneAfter s n (verdictOf (.rts c) s) = s.lane n := by
  apply laneAfter_checkedTransfer
  split
  · unfold returnVerdict; split <;> rfl
  · rfl

theorem laneAfter_doUntil (s : State) (off : BitVec 16) (term : Term) (n : LaneId) :
    laneAfter s n (verdictOf (.doUntil off term) s) = s.lane n :=
  laneAfter_checkedTransfer _ _ _ _ (lane_congr (by simp) n)

theorem laneAfter_cpGR (s : State) (g : GClass) (k : GIx) (rx : Reg) (c : Cond) (n : LaneId) :
    laneAfter s n (verdictOf (.cpGR g k rx c) s) = s.lane n := by
  simp only [verdictOf, laneAfter]
  split
  · exact lane_congr (by simp) n
  · rfl

theorem laneAfter_writeShared (s : State) (c : Ctl) (hc : c = .cntr ∨ c = .mstat) (rx : Reg)
    (cond : Cond) (n : LaneId) : laneAfter s n (writeCtlVerdict c rx cond s) = s.lane n := by
  rcases hc with rfl | rfl <;> simp only [writeCtlVerdict, ctlReadOnly, laneAfter] <;>
    exact lane_congr (by split <;> rfl) n

/-! ## Two states that agree on one lane and on what is shared -/

section Agree

variable {s u : State} {n : LaneId} (hs : SameShared s u) (hn : u.lane n = s.lane n)

include hn in
theorem agree_realMask (c : Cond) : (realMask u c).get n = (realMask s c).get n := by simp [hn]

include hn in
theorem agree_complexMask (c : Cond) : (complexMask u c).get n = (complexMask s c).get n := by
  simp [hn]

include hn in
theorem agree_mapMask {k k' : Mask} {f f' : LaneId → LaneState → LaneState}
    (hk : k'.get n = k.get n) (hf : f' n (s.lane n) = f n (s.lane n)) :
    laneAfter u n (.wrote (mapMask u k' f') none) =
      laneAfter s n (.wrote (mapMask s k f) none) := by
  rw [laneAfter_mapMask, laneAfter_mapMask, hk, hn, hf]

include hn in
theorem agree_real {c : Cond} {f : LaneId → LaneState → LaneState} :
    laneAfter u n (.wrote (mapMask u (realMask u c) f) none) =
      laneAfter s n (.wrote (mapMask s (realMask s c) f) none) :=
  agree_mapMask hn (agree_realMask hn c) rfl

include hn in
theorem agree_complex {c : Cond} {f : LaneId → LaneState → LaneState} :
    laneAfter u n (.wrote (mapMask u (complexMask u c) f) none) =
      laneAfter s n (.wrote (mapMask s (complexMask s c) f) none) :=
  agree_mapMask hn (agree_complexMask hn c) rfl

include hs in
theorem agree_readG (g : GClass) (k : GIx) : readG u g k = readG s g k :=
  readG_congr hs.address.i hs.address.m hs.address.l hs.address.b g k

include hs in
theorem agree_effAddr (mode : Mode) : effAddr u mode = effAddr s mode := by
  cases mode <;> simp [effAddr, postAddr, brev, hs.address.i, hs.address.m, hs.control.mstat]

include hs in
theorem agree_addrCheck (cplx : Bool) (ea : Addr) : addrCheck u cplx ea = addrCheck s cplx ea := by
  simp [addrCheck, hs.params]

include hs hn in
theorem agree_readCtl (ctl : Ctl) : readCtl u n ctl = readCtl s n ctl := by
  cases ctl <;> simp [readCtl, hs.control.cntr, hs.control.mstat, hs.control.sstat, hn]

include hs hn in
theorem agree_mem {cplx : Bool} {mode : Mode} {k k' : Mask}
    {f : Addr → LaneId → LaneState → LaneState} (hk : k'.get n = k.get n) :
    laneAfter u n (memVerdict cplx mode k' u f) = laneAfter s n (memVerdict cplx mode k s f) := by
  rw [laneAfter_memVerdict, laneAfter_memVerdict, agree_effAddr hs, agree_addrCheck hs, hk, hn]

section Mem

variable {mode : Mode} {r : Reg} {k k' : Mask} (hk : k'.get n = k.get n)
include hs hn hk

theorem agree_load : laneAfter u n (loadVerdict mode k' r u) = laneAfter s n (loadVerdict mode k r s) :=
  agree_mem hs hn hk

theorem agree_store :
    laneAfter u n (storeVerdict mode k' r u) = laneAfter s n (storeVerdict mode k r s) :=
  agree_mem hs hn hk

theorem agree_loadPair :
    laneAfter u n (loadPairVerdict mode k' r u) = laneAfter s n (loadPairVerdict mode k r s) :=
  agree_mem hs hn hk

theorem agree_storePair :
    laneAfter u n (storePairVerdict mode k' r u) = laneAfter s n (storePairVerdict mode k r s) :=
  agree_mem hs hn hk

end Mem

include hs hn in
theorem agree_macLd {kind : MacKind} {o : MacOpt} {acc : AccIx} {rx ry : Reg} {lrd : Reg8}
    {li lm : Ix4} {c : Cond} :
    laneAfter u n (macLdVerdict kind o acc rx ry lrd li lm c u) =
      laneAfter s n (macLdVerdict kind o acc rx ry lrd li lm c s) :=
  agree_mem hs hn (agree_realMask hn c)

include hs hn in
theorem agree_shiftSt {kind : ShiftKind} {rd rx ry : Reg} {srs : Reg8} {si sm : Ix4} {c : Cond} :
    laneAfter u n (shiftStVerdict kind rd rx ry srs si sm c u) =
      laneAfter s n (shiftStVerdict kind rd rx ry srs si sm c s) :=
  agree_mem hs hn (agree_realMask hn c)

include hs hn in
theorem agree_aluLd {op : AluOp} {rd rx ry : Reg} {lrd : Reg8} {li lm : Ix4} {c : Cond} :
    laneAfter u n (aluLdVerdict op rd rx ry lrd li lm c u) =
      laneAfter s n (aluLdVerdict op rd rx ry lrd li lm c s) := by
  unfold aluLdVerdict
  split
  · exact hn
  · exact agree_mem hs hn (agree_realMask hn c)

include hs hn in
theorem agree_macLdLd {kind : MacKind} {o : MacOpt1} {acc : Acc4} {rx ry r1 : Reg8}
    {i1 m1 : Ix4} {r2 : Reg8} {i2 m2 : Ix4} {c : Cond} :
    laneAfter u n (macLdLdVerdict kind o acc rx ry r1 i1 m1 r2 i2 m2 c u) =
      laneAfter s n (macLdLdVerdict kind o acc rx ry r1 i1 m1 r2 i2 m2 c s) := by
  unfold macLdLdVerdict
  simp only [agree_effAddr hs, agree_addrCheck hs]
  split
  · exact hn
  · split
    · exact hn
    · split
      · exact hn
      · simp [laneAfter, applyPost_lane, hn]

include hn in
theorem agree_writeCtl (ctl : Ctl) (rx : Reg) (c : Cond) :
    laneAfter u n (writeCtlVerdict ctl rx c u) = laneAfter s n (writeCtlVerdict ctl rx c s) := by
  cases ctl
  case cntr | mstat =>
    rw [laneAfter_writeShared _ _ (by simp), laneAfter_writeShared _ _ (by simp), hn]
  case sstat | dpid => exact hn
  case astatR | astatI | astatC => exact agree_real hn

include hn in
theorem agree_loadCtl (ctl : Ctl) (imm : BitVec 16) :
    laneAfter u n (loadCtlVerdict ctl imm u) = laneAfter s n (loadCtlVerdict ctl imm s) := by
  cases ctl
  case astatR | astatI | astatC => exact agree_mapMask hn rfl rfl
  case cntr | mstat | sstat | dpid => exact hn

include hs hn in
theorem agree_popStatus : (popStatus u).lane n = (popStatus s).lane n := by
  have hstk := hs.stk.stsStk
  cases h : s.stsStk with
  | nil => rw [h] at hstk; simpa [popStatus, h, hstk, State.lane] using hn
  | cons e rest =>
    rw [h] at hstk
    have hl : ∀ v : State, v.stsStk = e :: rest →
        (popStatus v).lane n = withBundles (v.lane n) (e.bundles.get n) := by
      intro v hv; simp [popStatus, hv, State.lane]
    rw [hl u hstk, hl s h, hn]

include hn in
theorem agree_softReset : (softReset u).lane n = (softReset s).lane n := by
  rw [lane_softReset, lane_softReset, hn]

include hs hn in
/-- The lane of a word's verdict depends on that lane and on what is shared. -/
theorem agree_verdict (i : Instr) :
    laneAfter u n (verdictOf i u) = laneAfter s n (verdictOf i s) := by
  cases i
  case nop => exact hn
  case reset => exact agree_softReset hn
  case popSts => exact agree_popStatus hs hn
  case pushSts =>
    exact (lane_congr (by simp) n).trans (hn.trans (lane_congr (by simp) n).symm)
  case jump => rw [laneAfter_jump, laneAfter_jump, hn]
  case call => rw [laneAfter_call, laneAfter_call, hn]
  case rts => rw [laneAfter_rts, laneAfter_rts, hn]
  case doUntil => rw [laneAfter_doUntil, laneAfter_doUntil, hn]
  case cpGR => rw [laneAfter_cpGR, laneAfter_cpGR, hn]
  case ldGI => exact (lane_congr (by simp) n).trans (hn.trans (lane_congr (by simp) n).symm)
  case cpCR => exact agree_writeCtl hn _ _ _
  case ldCI => exact agree_loadCtl hn _ _
  case cpRG rd g k c =>
    exact agree_mapMask hn (agree_realMask hn c) (by simp only [agree_readG hs])
  case cpRC rd ctl c =>
    exact agree_mapMask hn (agree_realMask hn c) (by simp only [agree_readCtl hs hn])
  case addC | subC | conjC | polarC | rectC | cpC | mpyC | macC | masC => exact agree_complex hn
  case ldAbs => exact agree_load hs hn rfl
  case stAbs => exact agree_store hs hn rfl
  case ldCAbs => exact agree_loadPair hs hn rfl
  case stCAbs => exact agree_storePair hs hn rfl
  case ldPostM | ldPreM | ldPostI | ldPreI => exact agree_load hs hn (agree_realMask hn _)
  case stPostM | stPreM | stPostI | stPreI => exact agree_store hs hn (agree_realMask hn _)
  case ldCPostM | ldCPreM | ldCPostI | ldCPreI =>
    exact agree_loadPair hs hn (agree_complexMask hn _)
  case stCPostM | stCPreM | stCPostI | stCPreI =>
    exact agree_storePair hs hn (agree_complexMask hn _)
  case addLd | addcLd | subLd | subbLd | andLd | orLd | xorLd => exact agree_aluLd hs hn
  case mpyLd | macLd | masLd => exact agree_macLd hs hn
  case mpyLdLd | macLdLd | masLdLd => exact agree_macLdLd hs hn
  case ashiftSt | lshiftSt => exact agree_shiftSt hs hn
  all_goals exact agree_real hn

end Agree

/-- Settles O15. -/
theorem lanesDoNotInterfere : Obligations.LanesDoNotInterfere := by
  intro i s u s' u' n hs hn hs' hu'
  rw [exec_next hs', exec_next hu', retire_lane, retire_lane, agree_verdict hs hn]

end Sys2Proof.Machine
end

section
/-! PROOFS. A counted loop runs its body as often as its count says (spec/45_control_flow.md R341): what the
word at the terminal address does to the loop stack, then the induction over the passes. -/

namespace Sys2Proof.Machine

/-! ## The transfer a word takes -/

/-- The target of the transfer a word takes, if it takes one. -/
def Verdict.target : Verdict → Option Addr
  | .raised _ _ => none
  | .wrote _ g => g

theorem memVerdict_target (cplx : Bool) (mode : Mode) (k : Mask) (s : State)
    (f : Addr → LaneId → LaneState → LaneState) : (memVerdict cplx mode k s f).target = none := by
  unfold memVerdict; split <;> rfl

theorem aluLd_target (op : AluOp) (rd rx ry : Reg) (lrd : Reg8) (li lm : Ix4) (c : Cond)
    (s : State) : (aluLdVerdict op rd rx ry lrd li lm c s).target = none := by
  unfold aluLdVerdict
  split
  · rfl
  · exact memVerdict_target _ _ _ _ _

theorem macLdLd_target (kind : MacKind) (o : MacOpt1) (acc : Acc4) (rx ry r1 : Reg8)
    (i1 m1 : Ix4) (r2 : Reg8) (i2 m2 : Ix4) (c : Cond) (s : State) :
    (macLdLdVerdict kind o acc rx ry r1 i1 m1 r2 i2 m2 c s).target = none := by
  unfold macLdLdVerdict
  split
  · rfl
  · dsimp only
    split
    · rfl
    · split <;> rfl

/-- A control transfer whose structural check fails. -/
theorem checkedTransfer_raised {s : State} {b : Bool} (h : transferCheck s b ≠ none) (v : Verdict) :
    ∃ t, checkedTransfer s b v = .raised .struct (.transfer t) := by
  obtain ⟨t, ht⟩ := Option.ne_none_iff_exists'.mp h
  exact ⟨t, by simp [checkedTransfer, ht]⟩

/-- At the terminal address of the top loop that is every control transfer. -/
theorem checkedTransfer_atLoopEnd {s : State} (h : AtLoopEnd s) (b : Bool) (v : Verdict) :
    ∃ t, checkedTransfer s b v = .raised .struct (.transfer t) := by
  refine checkedTransfer_raised (fun hc => ?_) v
  cases b with
  | true => exact absurd h ((transferCheck_true s).mp hc).2.1
  | false => exact absurd h ((transferCheck_false s).mp hc).2

/-- So no word takes a transfer there. -/
theorem target_atLoopEnd (i : Instr) {s : State} (h : AtLoopEnd s) :
    (verdictOf i s).target = none := by
  have checked : ∀ b v, (checkedTransfer s b v).target = none := by
    intro b v
    obtain ⟨t, ht⟩ := checkedTransfer_atLoopEnd h b v
    rw [ht]; rfl
  cases i
  case jump | call | rts | doUntil => exact checked _ _
  case cpCR ctl rx c => cases ctl <;> rfl
  case ldCI ctl imm => cases ctl <;> rfl
  case ldAbs | stAbs | ldCAbs | stCAbs | ldPostM | stPostM | ldCPostM | stCPostM | ldPreM | stPreM |
      ldCPreM | stCPreM | ldPostI | stPostI | ldCPostI | stCPostI | ldPreI | stPreI | ldCPreI |
      stCPreI | mpyLd | macLd | masLd | ashiftSt | lshiftSt =>
    simp only [verdictOf, loadVerdict, storeVerdict, loadPairVerdict, storePairVerdict, macLdVerdict,
      shiftStVerdict, memVerdict_target]
  case addLd | addcLd | subLd | subbLd | andLd | orLd | xorLd => exact aluLd_target _ _ _ _ _ _ _ _ _
  case mpyLdLd | macLdLd | masLdLd => exact macLdLd_target _ _ _ _ _ _ _ _ _ _ _ _ _
  all_goals rfl

/-- The words that write the loop stack are `DO` and `RESET`. -/
theorem verdict_lpStk {i : Instr} {s t : State} {g : Option Addr}
    (h : VerdictShape i s (.wrote t g)) (hreset : i ≠ .reset)
    (hdo : ∀ off term, i ≠ .doUntil off term) : t.lpStk = s.lpStk := by
  generalize hv : Verdict.wrote t g = v at h
  cases h <;> cases hv
  case pushLoop e hi =>
    obtain ⟨off, term, rfl⟩ := hi
    exact absurd rfl (hdo off term)
  case reset hi => exact absurd hi hreset
  all_goals simp

/-- At the terminal address of the top loop every word but `RESET` ends with loop-end processing. -/
theorem exec_atLoopEnd {i : Instr} {s t : State} (h : exec i s = .next t) (hend : AtLoopEnd s)
    (hi : i ≠ .reset) : FallsThrough s.lpStk s t := by
  have hs := verdict_cases i s
  have htarget := target_atLoopEnd i hend
  rw [exec_next h]
  cases hv : verdictOf i s with
  | raised cls info => exact (retire_raised _ _ _ _).flow
  | wrote u g =>
    rw [hv] at hs htarget
    cases (htarget : g = none)
    have hdo : ∀ off term, i ≠ .doUntil off term := by
      rintro off term rfl
      obtain ⟨f, hf⟩ := checkedTransfer_atLoopEnd hend false
        (.wrote (pushLoop s (loopEntry s off term)) none)
      exact absurd (hf.symm.trans hv) nofun
    have hu := verdict_untouched hs rfl
    have hflow := retire_wrote_flow (wordClass i) s u hu.pc hu.dsPending hu.dsTarget
    rwa [verdict_lpStk hs hi hdo] at hflow

/-! ## One pass of a body -/

theorem step_atTerminal {a : Addr} {stk : List LoopEntry} {u t : State} (h : AtTerminal a stk u)
    (hend : AtLoopEnd u) (hstep : step u = .next t) : FallsThrough u.lpStk u t := by
  obtain ⟨w, hw, hreset⟩ := h.word
  rw [← h.pc] at hw
  cases step_cases hstep with
  | halted hh => exact absurd (h.running.symm.trans hh) (by decide)
  | noWord _ hno => exact absurd (hw.symm.trans hno) (by simp)
  | illegal => exact (retire_raised _ _ _ _).flow
  | legal w' i _ hw' hd hexec =>
    cases Option.some.inj (hw.symm.trans hw')
    exact exec_atLoopEnd hexec hend (fun hi => hreset (hi ▸ hd))

/-- A pass of a counted body ends with the loop-end processing of its entry. -/
theorem bodyPass_ends {s t : State} {e : LoopEntry} {rest : List LoopEntry}
    (h : BodyPass e.last s t) (hl : s.lpStk = e :: rest) (hf : e.forever = false) :
    (e.count ≠ 1 → t.pc = e.first ∧ t.lpStk = { e with count := e.count - 1 } :: rest) ∧
      (e.count = 1 → t.pc = e.last + 1 ∧ t.lpStk = rest) := by
  obtain ⟨n, run, -, -, hterm, hstep⟩ := h
  have hstk : (run n).lpStk = e :: rest := hterm.stk.trans hl
  have hflow := step_atTerminal hterm ⟨e, rest, hstk, hterm.pc⟩ hstep
  refine ⟨hflow.again hterm.slot e rest hstk hterm.pc hf, fun hc => ?_⟩
  rw [← hterm.pc]
  exact hflow.done hterm.slot e rest hstk hterm.pc hf hc

/-! ## The passes -/

/-- The count before pass `k` is 1 exactly before the last pass. -/
theorem count_eq_one_iff (count : BitVec 16) (k : Nat) (hk : k < loopTimes count) :
    count - BitVec.ofNat 16 k = 1 ↔ k + 1 = loopTimes count := by
  have hlt : count.toNat < 65536 := count.isLt
  rw [← BitVec.toNat_inj, BitVec.toNat_sub, BitVec.toNat_ofNat]
  by_cases hc : count = 0
  · subst hc
    have hN : loopTimes 0 = 65536 := rfl
    rw [hN] at hk ⊢
    simp
    omega
  · have hN : loopTimes count = count.toNat := if_neg hc
    rw [hN] at hk ⊢
    simp
    omega

theorem count_sub_succ (count : BitVec 16) (k : Nat) :
    count - BitVec.ofNat 16 k - 1 = count - BitVec.ofNat 16 (k + 1) := by
  rw [BitVec.ofNat_add, BitVec.sub_sub]
  rfl

/-- Settles O13: before pass `k` the count is `k` lower, so pass `loopTimes` is the last. -/
theorem loopRunsCountTimes : Obligations.LoopRunsCountTimes := by
  intro start e rest h0 hf hpass
  have hpos : 0 < loopTimes e.count := by
    unfold loopTimes
    split
    · decide
    · rename_i hc; exact Nat.pos_of_ne_zero fun hz => hc (BitVec.eq_of_toNat_eq hz)
  have ends : ∀ k, k < loopTimes e.count →
      (start k).lpStk = { e with count := e.count - BitVec.ofNat 16 k } :: rest →
      (k + 1 ≠ loopTimes e.count → (start (k + 1)).pc = e.first ∧
        (start (k + 1)).lpStk = { e with count := e.count - BitVec.ofNat 16 (k + 1) } :: rest) ∧
      (k + 1 = loopTimes e.count →
        (start (k + 1)).pc = e.last + 1 ∧ (start (k + 1)).lpStk = rest) := by
    intro k hk hl
    obtain ⟨hagain, hdone⟩ := bodyPass_ends
      (e := { e with count := e.count - BitVec.ofNat 16 k }) (hpass k hk) hl hf
    refine ⟨fun hne => ?_, fun heq => hdone ((count_eq_one_iff _ k hk).mpr heq)⟩
    obtain ⟨hpc, hstk⟩ := hagain fun h1 => hne ((count_eq_one_iff _ k hk).mp h1)
    exact ⟨hpc, by rw [hstk]; simp only [count_sub_succ]⟩
  have before : ∀ k, k < loopTimes e.count →
      (start k).lpStk = { e with count := e.count - BitVec.ofNat 16 k } :: rest ∧
      (0 < k → (start k).pc = e.first) := by
    intro k
    induction k with
    | zero => exact fun _ => ⟨by simp [h0], fun h => absurd h (by decide)⟩
    | succ k ih =>
      intro hk
      obtain ⟨hpc, hstk⟩ := (ends k (by omega) (ih (by omega)).1).1 (by omega)
      exact ⟨hstk, fun _ => hpc⟩
  obtain ⟨m, hm⟩ : ∃ m, loopTimes e.count = m + 1 := ⟨loopTimes e.count - 1, by omega⟩
  obtain ⟨hpc, hstk⟩ := (ends m (by omega) (before m (by omega)).1).2 hm.symm
  exact ⟨before, by rw [hm]; exact hstk, by rw [hm]; exact hpc⟩

end Sys2Proof.Machine
end

section
/-! PROOFS. The ALU instructions, real (spec/40_alu.md) and complex (spec/41_complex.md): one lemma says what
a computed result and its flags make of a lane, each instruction supplies the values. -/

namespace Sys2Proof.Machine

/-! ## A result and its flags in one lane -/

theorem getR_putComputed (ln : LaneState) (rd : Reg) (o : Computed) :
    getR (putComputed ln rd o) rd = o.r := by
  simp [putComputed, getR_setR]

theorem astatR_putComputed (ln : LaneState) (rd : Reg) (o : Computed) :
    (putComputed ln rd o).astatR = setFlags ln.astatR o.flags := rfl

/-- A lane that received an ALU result `r` with its four flags. -/
theorem putComputed_done {s t : State} {n : LaneId} {rd : Reg} {o : Computed} {r : DWord}
    {v c : Bool} (ht : t.lane n = putComputed (s.lane n) rd o) (hr : o.r = r)
    (hf : o.flags = aluFlags r v c) :
    getR (t.lane n) rd = r ∧ AluFlags r v c (s.lane n).astatR (t.lane n).astatR ∧
      LaneFrame [rd] [] aluFlagSet [] [] [] s t n := by
  have hstat : (putComputed (s.lane n) rd o).astatR = setFlags (s.lane n).astatR (aluFlags r v c) := by
    rw [astatR_putComputed, hf]
  refine ⟨by rw [ht, getR_putComputed, hr], by rw [ht, hstat]; exact aluFlags_spec _ _ _ _,
    laneFrame_of ht (fun q hq => getR_setR_frame _ _ _ _ hq) (fun _ _ => rfl) (fun f hfm => ?_)
      (fun _ _ => rfl) (fun _ _ => rfl) (fun _ _ => rfl)⟩
  rw [hstat]
  exact aluFlags_frame _ _ _ _ _ hfm

/-! ## Two-source instructions -/

theorem verdictOf_realAlu (op : AluOp) (rd rx : Reg) (y : YOperand) (c : Cond) (s : State) :
    verdictOf (realAlu op rd rx y c) s = aluVerdict op rd rx y c s := by
  cases op <;> cases y <;> rfl

/-- Settles O32. -/
theorem aluInstructions : Obligations.AluInstructions := by
  intro op rd rx y c s
  refine exec_lanes_real (verdictOf_realAlu op rd rx y c s) fun t n ht => ?_
  cases y with
  | reg ry => exact putComputed_done ht (aluCompute_r _ _ _ _) (aluCompute_flags _ _ _ _)
  | imm b => exact putComputed_done ht (aluCompute_r _ _ _ _) (aluCompute_flags _ _ _ _)

/-! ## Comparison by subtraction -/

/-- The zero flag after a subtraction. -/
theorem sub_eq_zero_iff (x y : DWord) : x - y = 0 ↔ x.toInt = y.toInt := by
  rw [sub_eq_zero, BitVec.toInt_inj]

/-- Sign and overflow of a difference together say which operand is the smaller. -/
theorem sub_less (x y : DWord) :
    ((x - y).msb ^^ overflows12 (x.toInt - y.toInt)) = decide (x.toInt < y.toInt) := by
  have hx := toInt_cases x
  have hy := toInt_cases y
  rw [msb_iff, BitVec.toNat_sub, overflows12, Bool.eq_iff_iff]
  simp only [Bool.xor_iff_ne, ne_eq, decide_eq_decide, decide_eq_true_eq]
  omega

/-- Settles O21. -/
theorem subtractThenCompare : Obligations.SubtractThenCompare := by
  intro rd rx ry s
  obtain ⟨t, hexec, -, hlanes⟩ := aluInstructions .sub rd rx (.reg ry) .always s
  refine ⟨t, hexec, fun n => ?_⟩
  obtain ⟨-, hflags, -⟩ := (hlanes n).2 rfl
  have haz := hflags.az
  have hless := sub_less (getR (s.lane n) rx) (getR (s.lane n) ry)
  have han := hflags.an
  have hav := hflags.av
  simp only [aluValue, aluOverflow, sub_eq_zero_iff] at haz han hav
  simp only [condHolds, haz, han, hav, hless]
  generalize (getR (s.lane n) rx).toInt = x
  generalize (getR (s.lane n) ry).toInt = y
  refine ⟨trivial, by simp, trivial, ?_, ?_, ?_⟩
  all_goals
    rw [Bool.eq_iff_iff]
    simp only [Bool.or_eq_true, Bool.not_eq_true', Bool.or_eq_false_iff, decide_eq_true_eq,
      decide_eq_false_iff_not]
    omega

/-! ## One-source instructions -/

theorem abs_frame (b : FlagBundle) (r : DWord) (v c m : Bool) (f : Flag)
    (h : f ∉ Flag.asn :: aluFlagSet) :
    flagOf (setFlags b (aluFlags r v c ++ [(.asn, m)])) f = flagOf b f := by
  apply flagOf_setFlags_of_not_mem
  revert h
  cases f <;> simp [aluFlags, aluFlagSet, Flag.sticky]

/-- Settles O33: `ABS` writes one flag more than the shared lemma covers. -/
theorem unaryAluInstructions : Obligations.UnaryAluInstructions := by
  intro rd rx c s
  refine ⟨exec_lanes_real (i := .notRR rd rx c) rfl fun t n ht => ?_,
    exec_lanes_real (i := .absRR rd rx c) rfl fun t n ht => ?_,
    exec_lanes_real (i := .negRR rd rx c) rfl fun t n ht => ?_⟩
  · exact putComputed_done ht rfl rfl
  · have hstat : (t.lane n).astatR = setFlags (s.lane n).astatR
        (absCompute (getR (s.lane n) rx)).flags := by rw [ht, astatR_putComputed]
    rw [absCompute_flags] at hstat
    refine ⟨by rw [ht, getR_putComputed, absCompute_r], ?_, ?_,
      laneFrame_of ht (fun q hq => getR_setR_frame _ _ _ _ hq) (fun _ _ => rfl) (fun f hf => ?_)
        (fun _ _ => rfl) (fun _ _ => rfl) (fun _ _ => rfl)⟩
    · rw [hstat]
      constructor <;> simp [aluFlags, flagOf_writeFlag, Flag.sticky, beq_eq_decide]
    · rw [hstat]
      simp [aluFlags, flagOf_writeFlag]
    · rw [← ht, hstat]
      exact abs_frame _ _ _ _ _ _ hf
  · exact putComputed_done ht (negCompute_r _) (negCompute_flags _)

/-! ## Complex instructions -/

/-- A lane that received a complex ALU result with its three sets of flags (41_complex.md R212). -/
theorem putComplex_done {s t : State} {n : LaneId} {rd : Reg} {oRe oIm : Computed}
    {re im : DWord} {vr vi cr ci : Bool} (ht : t.lane n = putComplex (s.lane n) rd oRe oIm)
    (hre : oRe.r = re) (him : oIm.r = im) (hfr : oRe.flags = aluFlags re vr cr)
    (hfi : oIm.flags = aluFlags im vi ci) :
    getR (t.lane n) rd = re ∧ getR (t.lane n) (oddOf rd) = im ∧
      AluFlags re vr cr (s.lane n).astatR (t.lane n).astatR ∧
      AluFlags im vi ci (s.lane n).astatI (t.lane n).astatI ∧
      CombinedFlags re im vr vi cr ci (s.lane n).astatC (t.lane n).astatC ∧
      LaneFrame [rd, oddOf rd] [] aluFlagSet aluFlagSet aluFlagSet [] s t n := by
  subst hre him
  simp only [putComplex, hfr, hfi] at ht
  refine ⟨?_, ?_, ?_, ?_, ?_, laneFrame_of ht (fun q hq => getR_setPair_frame _ _ _ _ _ _ hq)
    (fun _ _ => rfl) (fun f hf => ?_) (fun f hf => ?_) (fun f hf => ?_) (fun _ _ => rfl)⟩
  · rw [ht]; simp [getR_setR, oddOf_ne]
  · rw [ht]; simp [getR_setR]
  · rw [ht]; exact aluFlags_spec _ _ _ _
  · rw [ht]; exact aluFlags_spec _ _ _ _
  · rw [ht]; exact combineFlags_spec _ _ _ _ _ _ _
  · exact aluFlags_frame _ _ _ _ _ hf
  · exact aluFlags_frame _ _ _ _ _ hf
  · exact combineFlags_frame _ _ _ _ _ _ _ _ hf

/-- Settles O34. -/
theorem complexAluInstructions : Obligations.ComplexAluInstructions := by
  refine ⟨fun op i rd rx ry c s hi _ => ?_, fun rd rx c s _ => ?_⟩
  · have hv : verdictOf i s = complexVerdict op rd rx ry c s := by
      rcases hi with ⟨rfl, rfl⟩ | ⟨rfl, rfl⟩ <;> rfl
    exact exec_lanes_complex hv fun t n ht => putComplex_done ht (aluCompute_r _ _ _ _)
      (aluCompute_r _ _ _ _) (aluCompute_flags _ _ _ _) (aluCompute_flags _ _ _ _)
  · exact exec_lanes_complex (i := .conjC rd rx c) rfl fun t n ht =>
      putComplex_done ht rfl (negCompute_r _) rfl (negCompute_flags _)

theorem avFlag_frame (b : FlagBundle) (v : Bool) (f : Flag) (h : f ∉ [Flag.av, Flag.avs]) :
    flagOf (setFlags b [(.av, v)]) f = flagOf b f := by
  apply flagOf_setFlags_of_not_mem
  revert h
  cases f <;> simp [Flag.sticky]

theorem getR_convertLane (f : DWord → DWord → DWord × DWord × Bool) (rd rx q : Reg)
    (ln : LaneState) :
    getR (convertLane f rd rx ln) q =
      getR (setR (setR ln rd (f (getR ln rx) (getR ln (oddOf rx))).1) (oddOf rd)
        (f (getR ln rx) (getR ln (oddOf rx))).2.1) q := rfl

/-- Settles O35. -/
theorem complexConversions : Obligations.ComplexConversions := by
  intro f i rd rx c s hi _
  have hv : verdictOf i s = convertVerdict f rd rx c s := by
    rcases hi with ⟨rfl, rfl⟩ | ⟨rfl, rfl⟩ <;> rfl
  refine exec_lanes_complex hv fun t n ht => ⟨?_, ?_, ?_, ?_, laneFrame_of ht
    (fun q hq => getR_setPair_frame _ _ _ _ _ _ hq) (fun _ _ => rfl) (fun _ _ => rfl)
    (fun _ _ => rfl) (fun g hg => avFlag_frame _ _ _ hg) (fun _ _ => rfl)⟩
  · rw [ht, getR_convertLane]
    simp [getR_setR, oddOf_ne]
  · rw [ht, getR_convertLane]
    simp [getR_setR]
  · rw [ht]; simp [convertLane, flagOf_writeFlag]
  · rw [ht]; simp [convertLane, flagOf_writeFlag, Flag.sticky]

end Sys2Proof.Machine
end

section
/-! PROOFS. The multiplier (spec/42_mac.md), the shifter and the divide steps (43_shift_divide.md). -/

namespace Sys2Proof.Machine

/-! ## Multiplier -/

theorem getAcc_macLane (kind : MacKind) (o : MacOpt) (acc : AccIx) (rx ry : Reg) (ln : LaneState) :
    getAcc (macLane kind o acc rx ry ln) acc =
      saturate32 (macResult kind o (getAcc ln acc) (macX o (getR ln rx) * macY o (getR ln ry))) := by
  rw [macLane_spec, getAcc_flagsR, getAcc_setAcc, if_pos rfl]

theorem astatR_macLane (kind : MacKind) (o : MacOpt) (acc : AccIx) (rx ry : Reg) (ln : LaneState) :
    (macLane kind o acc rx ry ln).astatR = setFlags ln.astatR [(.mv, mvOf
      (macResult kind o (getAcc ln acc) (macX o (getR ln rx) * macY o (getR ln ry))))] := by
  rw [macLane_spec]; rfl

/-- A lane whose accumulator and real bundle are those of a multiplier operation. -/
theorem macDone_of {kind : MacKind} {o : MacOpt} {acc : AccIx} {rx ry : Reg} {s t : State}
    {n : LaneId}
    (ha : getAcc (t.lane n) acc = getAcc (macLane kind o acc rx ry (s.lane n)) acc)
    (hr : (t.lane n).astatR = (macLane kind o acc rx ry (s.lane n)).astatR) :
    MacDone kind o acc rx ry s t n := by
  rw [getAcc_macLane] at ha
  rw [astatR_macLane] at hr
  exact ⟨by rw [ha]; exact saturate32_spec _, by rw [hr]; exact mvFlags_spec _ _⟩

theorem macLane_accs (kind : MacKind) (o : MacOpt) (acc : AccIx) (rx ry : Reg) (ln : LaneState)
    (k : AccIx) (h : k ∉ [acc]) : getAcc (macLane kind o acc rx ry ln) k = getAcc ln k := by
  rw [macLane_spec, getAcc_flagsR]
  exact getAcc_setAcc_frame _ _ _ _ h

theorem macLane_flags (kind : MacKind) (o : MacOpt) (acc : AccIx) (rx ry : Reg) (ln : LaneState)
    (f : Flag) (h : f ∉ [Flag.mv, Flag.mvs]) :
    flagOf (macLane kind o acc rx ry ln).astatR f = flagOf ln.astatR f := by
  rw [astatR_macLane]
  exact mvFlags_frame _ _ _ h

theorem verdictOf_realMac (kind : MacKind) (o : MacOpt) (acc : AccIx) (rx ry : Reg) (c : Cond)
    (s : State) : verdictOf (realMac kind o acc rx ry c) s = macVerdict kind o acc rx ry c s := by
  cases kind <;> rfl

/-- Settles O36. -/
theorem realMultiply : Obligations.RealMultiply := by
  intro kind o acc rx ry c s
  exact exec_lanes_real (verdictOf_realMac kind o acc rx ry c s) fun t n ht =>
    ⟨macDone_of (by rw [ht]) (by rw [ht]), laneFrame_of ht (fun _ _ => rfl)
      (macLane_accs _ _ _ _ _ _) (macLane_flags _ _ _ _ _ _) (fun _ _ => rfl) (fun _ _ => rfl)
      (fun _ _ => rfl)⟩

theorem verdictOf_complexMac (kind : MacKind) (conj : Bool) (o : MacOpt) (acc : AccIx)
    (rx ry : Reg) (c : Cond) (s : State) :
    verdictOf (complexMac kind conj o acc rx ry c) s =
      macComplexVerdict kind conj o acc rx ry c s := by
  cases kind <;> rfl

/-- The exact real and imaginary parts in the terms of the statements (42_mac.md R238). -/
theorem macRe_eq (kind : MacKind) (conj : Bool) (o : MacOpt) (acc : AccIx) (rx ry : Reg)
    (ln : LaneState) :
    macRe kind conj o acc rx ry ln = macResult kind o (getAcc ln acc)
      (macX o (getR ln rx) * macY o (getR ln ry) - macX o (getR ln (oddOf rx)) *
        (if conj then -macY o (getR ln (oddOf ry)) else macY o (getR ln (oddOf ry)))) := by
  rw [macRe, macExact_eq]
  cases o <;> rfl

theorem macIm_eq (kind : MacKind) (conj : Bool) (o : MacOpt) (acc : AccIx) (rx ry : Reg)
    (ln : LaneState) :
    macIm kind conj o acc rx ry ln = macResult kind o (getAcc ln (oddAcc acc))
      (macX o (getR ln rx) * (if conj then -macY o (getR ln (oddOf ry)) else macY o (getR ln (oddOf ry)))
        + macX o (getR ln (oddOf rx)) * macY o (getR ln ry)) := by
  rw [macIm, macExact_eq]
  cases o <;> rfl

/-- A complex multiplier operation writes `MV` of either part, and of both together (41_complex.md
R212). -/
theorem macComplexLane_eq (kind : MacKind) (conj : Bool) (o : MacOpt) (acc : AccIx) (rx ry : Reg)
    (ln : LaneState) :
    macComplexLane kind conj o acc rx ry ln =
      flagsC (setAcc (setAcc ln acc (saturate32 (macRe kind conj o acc rx ry ln))) (oddAcc acc)
        (saturate32 (macIm kind conj o acc rx ry ln)))
        [(.mv, mvOf (macRe kind conj o acc rx ry ln))]
        [(.mv, mvOf (macIm kind conj o acc rx ry ln))] := by
  simp only [macComplexLane, macMv_eq]

/-- Settles O37. -/
theorem complexMultiply : Obligations.ComplexMultiply := by
  intro kind conj o acc rx ry c s _
  refine exec_lanes_complex (verdictOf_complexMac kind conj o acc rx ry c s) fun t n ht => ?_
  rw [macComplexLane_eq, macRe_eq, macIm_eq] at ht
  refine ⟨?_, ?_, ?_, ?_, ?_, laneFrame_of ht (fun _ _ => rfl)
    (fun k hk => getAcc_setPair_frame _ _ _ _ _ _ hk) (fun f hf => mvFlags_frame _ _ _ hf)
    (fun f hf => mvFlags_frame _ _ _ hf) (fun f hf => mvFlags_frame _ _ _ hf) (fun _ _ => rfl)⟩
  · rw [ht, getAcc_flagsC, getAcc_setAcc, if_neg (oddAcc_ne acc), getAcc_setAcc, if_pos rfl]
    exact saturate32_spec _
  · rw [ht, getAcc_flagsC, getAcc_setAcc, if_pos rfl]
    exact saturate32_spec _
  · rw [ht]; exact mvFlags_spec _ _
  · rw [ht]; exact mvFlags_spec _ _
  · rw [ht]; exact mvFlags_spec _ _

/-! ## Shifter -/

theorem shiftLane_r (kind : ShiftKind) (rx : Reg) (y : YOperand) (ln : LaneState) :
    (shiftLane kind rx y ln).r = shiftValue kind (getR ln rx) (clamped (amountOf y ln)) := by
  rw [shiftLane, shiftAmount_eq, shiftCompute_r]

theorem shiftLane_flags (kind : ShiftKind) (rx : Reg) (y : YOperand) (ln : LaneState) :
    (shiftLane kind rx y ln).flags = [(.ss, (getR ln rx).msb),
      (.sv, shiftOverflow kind (getR ln rx) (clamped (amountOf y ln)))] := by
  rw [shiftLane, shiftAmount_eq, shiftCompute_flags]

/-- A lane whose destination and real bundle are those of a shift. -/
theorem shiftDone_of {kind : ShiftKind} {rd rx : Reg} {y : YOperand} {s t : State} {n : LaneId}
    (hd : getR (t.lane n) rd = (shiftLane kind rx y (s.lane n)).r)
    (hr : (t.lane n).astatR = setFlags (s.lane n).astatR (shiftLane kind rx y (s.lane n)).flags) :
    ShiftDone kind rd rx y s t n := by
  rw [shiftLane_flags] at hr
  exact ⟨by rw [hd, shiftLane_r], by rw [hr]; exact shiftFlags_spec _ _ _⟩

theorem shiftLane_frame (kind : ShiftKind) (rx : Reg) (y : YOperand) (ln : LaneState) (f : Flag)
    (h : f ∉ shiftFlagSet) :
    flagOf (setFlags ln.astatR (shiftLane kind rx y ln).flags) f = flagOf ln.astatR f := by
  rw [shiftLane_flags]
  exact shiftFlags_frame _ _ _ _ h

theorem verdictOf_realShift (kind : ShiftKind) (rd rx : Reg) (y : YOperand) (c : Cond) (s : State) :
    verdictOf (realShift kind rd rx y c) s = .wrote (mapMask s (realMask s c) fun _ ln =>
      putComputed ln rd (shiftLane kind rx y ln)) none := by
  cases kind <;> cases y <;> rfl

/-- Settles O38. -/
theorem shiftInstructions : Obligations.ShiftInstructions := by
  intro kind rd rx y c s
  refine exec_lanes_real (verdictOf_realShift kind rd rx y c s) fun t n ht => ⟨shiftDone_of ?_ ?_,
    laneFrame_of ht (fun q hq => getR_setR_frame _ _ _ _ hq) (fun _ _ => rfl) (fun f hf => ?_)
      (fun _ _ => rfl) (fun _ _ => rfl) (fun _ _ => rfl)⟩
  · rw [ht, getR_putComputed]
  · rw [ht, astatR_putComputed]
  · rw [astatR_putComputed, shiftLane_frame _ _ _ _ _ hf]

/-! ## Divide steps -/

theorem aqFlag_frame (b : FlagBundle) (v : Bool) (f : Flag) (h : f ∉ [Flag.aq]) :
    flagOf (setFlags b [(.aq, v)]) f = flagOf b f := by
  apply flagOf_setFlags_of_not_mem
  revert h
  cases f <;> simp [Flag.sticky]

/-- Settles O39. -/
theorem divideSteps : Obligations.DivideSteps := by
  intro f i rd rx ry c s hi
  have hv : verdictOf i s = divideVerdict f rd rx ry c s := by
    rcases hi with ⟨rfl, rfl⟩ | ⟨rfl, rfl⟩ <;> rfl
  refine exec_lanes_real hv fun t n ht => ⟨?_, ?_, laneFrame_of ht
    (fun q hq => getR_setR_frame _ _ _ _ hq) (fun _ _ => rfl) (fun g hg => aqFlag_frame _ _ _ hg)
    (fun _ _ => rfl) (fun _ _ => rfl) (fun _ _ => rfl)⟩
  · rw [ht]; simp [getR_setR]
  · rw [ht]; simp [flagOf_writeFlag]

end Sys2Proof.Machine
end

section
/-! PROOFS. Register moves and immediate loads (spec/44_move_load_store.md R270 to R285). -/

namespace Sys2Proof.Machine

/-! ## Moves into a register of the lane -/

/-- A word that writes `F` into the register `rd` of every active lane. -/
theorem exec_setR {i : Instr} {rd : Reg} {c : Cond} {s : State} {F : LaneId → LaneState → DWord}
    (hv : verdictOf i s = .wrote (mapMask s (realMask s c) fun n ln => setR ln rd (F n ln)) none) :
    ∃ t, exec i s = .next t ∧ OnlyLanes s t ∧ ∀ n,
      (condHolds c (s.lane n).astatR = false → t.lane n = s.lane n) ∧
      (condHolds c (s.lane n).astatR = true →
        getR (t.lane n) rd = F n (s.lane n) ∧ LaneFrame [rd] [] [] [] [] [] s t n) :=
  exec_lanes_real hv fun t n ht => ⟨by rw [ht, getR_setR, if_pos rfl],
    laneFrame_of ht (fun q hq => getR_setR_frame _ _ _ _ hq) (fun _ _ => rfl) (fun _ _ => rfl)
      (fun _ _ => rfl) (fun _ _ => rfl) (fun _ _ => rfl)⟩

/-- Settles O40: the five moves differ in the value only. -/
theorem movesIntoRegisters : Obligations.MovesIntoRegisters := by
  refine ⟨fun i rd c value s hi => ?_, fun s n => ⟨rfl, rfl, rfl, rfl, rfl, rfl, ?_⟩⟩
  · rcases hi with ⟨rx, rfl, rfl⟩ | ⟨v, k, rfl, rfl⟩ | ⟨g, k, rfl, rfl⟩ | ⟨ctl, rfl, rfl⟩ |
      ⟨imm, rfl, rfl⟩
    · exact exec_setR (F := fun _ ln => getR ln rx) rfl
    · exact exec_setR (F := fun _ ln => readView v (getAcc ln k)) rfl
    · exact exec_setR (F := fun _ _ => (readG s g k).extractLsb' 0 12) rfl
    · exact exec_setR (F := fun n _ => readCtl s n ctl) rfl
    · exact exec_setR (F := fun _ _ => imm) rfl
  · have hn := n.isLt
    simp only [readCtl, BitVec.toNat_ofNat]
    omega

/-- Settles O41. -/
theorem complexMove : Obligations.ComplexMove := by
  intro rd rx c s _
  refine exec_lanes_complex (i := .cpC rd rx c) rfl fun t n ht => ⟨?_, ?_,
    laneFrame_of ht (fun q hq => getR_setPair_frame _ _ _ _ _ _ hq) (fun _ _ => rfl)
      (fun _ _ => rfl) (fun _ _ => rfl) (fun _ _ => rfl) (fun _ _ => rfl)⟩
  · rw [ht, getR_setR, if_neg (oddOf_ne rd), getR_setR, if_pos rfl]
  · rw [ht, getR_setR, if_pos rfl]

/-! ## Moves into an accumulator -/

theorem exec_setAcc {i : Instr} {k : AccIx} {c : Cond} {s : State} {F : LaneState → AccWord}
    (hv : verdictOf i s = .wrote (mapMask s (realMask s c) fun _ ln => setAcc ln k (F ln)) none) :
    ∃ t, exec i s = .next t ∧ OnlyLanes s t ∧ ∀ n,
      (condHolds c (s.lane n).astatR = false → t.lane n = s.lane n) ∧
      (condHolds c (s.lane n).astatR = true →
        getAcc (t.lane n) k = F (s.lane n) ∧ LaneFrame [] [k] [] [] [] [] s t n) :=
  exec_lanes_real hv fun t n ht => ⟨by rw [ht, getAcc_setAcc, if_pos rfl],
    laneFrame_of ht (fun _ _ => rfl) (fun q hq => getAcc_setAcc_frame _ _ _ _ hq) (fun _ _ => rfl)
      (fun _ _ => rfl) (fun _ _ => rfl) (fun _ _ => rfl)⟩

/-- Settles O42. -/
theorem movesIntoAccumulators : Obligations.MovesIntoAccumulators := by
  intro i k c value s hi
  rcases hi with ⟨v, rx, rfl, rfl⟩ | ⟨k', rfl, rfl⟩
  · exact exec_setAcc (i := .cpVR v k rx c)
      (F := fun ln => writeView v (getAcc ln k) (getR ln rx)) rfl
  · exact exec_setAcc (i := .cpAA k k' c) (F := fun ln => getAcc ln k') rfl

/-! ## Writes of shared registers -/

/-- A step that wrote address-generator registers at most. -/
structure OnlyIndex (s t : State) : Prop where
  lanes : LanesKept s t
  control : ControlKept s t
  stk : StacksKept s t
  machine : MachineKept s t
  errors : NoError s t
  flow : FallsThrough s.lpStk s t

theorem retire_writeG (k : WordClass) (s : State) (g : GClass) (j : GIx) (v : Addr) :
    OnlyIndex s (retire k s (.wrote (writeG s g j v) none)) where
  lanes n := (retire_wrote_lane _ _ _ _ n).trans (lane_congr (by simp) n)
  control := by constructor <;> simp [retire]
  stk := by constructor <;> simp [retire]
  machine := by constructor <;> simp [retire]
  errors := by constructor <;> simp [retire]
  flow := by
    have h := retire_wrote_flow k s (writeG s g j v) (by simp) (by simp) (by simp)
    rwa [writeG_lpStk] at h

theorem readG_retire_writeG (k : WordClass) (s : State) (g h : GClass) (j q : GIx) (v : Addr) :
    readG (retire k s (.wrote (writeG s g j v) none)) h q =
      if h = g ∧ q = j then v else readG s h q := by
  have a := retire_wrote_address k s (writeG s g j v) none
  rw [readG_congr a.i a.m a.l a.b, readG_writeG]
  exact if_congr (and_congr eq_comm eq_comm) rfl rfl

theorem retire_same (k : WordClass) (s : State) : OnlyIndex s (retire k s (.wrote s none)) :=
  let h := retire_wrote_self_onlyLanes k s
  ⟨retire_wrote_lane _ _ _ _, h.control, h.stk, h.machine, h.errors, h.flow⟩

/-- The verdict of `CP G, Rx` by its mask (10_state.md R42). -/
theorem verdictOf_cpGR_active {g : GClass} {k : GIx} {rx : Reg} {c : Cond} {s : State} {n : LaneId}
    (h : condHolds c (s.lane n).astatR = true)
    (hm : ∀ m, m < n → condHolds c (s.lane m).astatR = false) :
    verdictOf (.cpGR g k rx c) s = .wrote (writeG s g k (widenG g (getR (s.lane n) rx))) none := by
  obtain ⟨hany, hfirst⟩ := firstLane_of h hm
  simp only [verdictOf, hany, if_true, firstValue, hfirst]

theorem verdictOf_cpGR_idle {g : GClass} {k : GIx} {rx : Reg} {c : Cond} {s : State}
    (h : anyLane (realMask s c) = false) : verdictOf (.cpGR g k rx c) s = .wrote s none := by
  simp [verdictOf, h]

theorem widenG_eq (g : GClass) (v : DWord) :
    widenG g v = if g = .m then v.signExtend 16 else v.zeroExtend 16 := by
  cases g <;> rfl

/-- Settles O43. -/
theorem addressRegisterWrites : Obligations.AddressRegisterWrites := by
  refine ⟨fun g k rx c s => ⟨_, exec_eq _ _, ?_⟩, fun g k imm s => ⟨_, exec_eq _ _, ?_⟩⟩
  · have hframe : OnlyIndex s
        (retire (wordClass (.cpGR g k rx c)) s (verdictOf (.cpGR g k rx c) s)) := by
      simp only [verdictOf]
      split
      · exact retire_writeG _ _ _ _ _
      · exact retire_same _ _
    refine ⟨hframe.lanes, hframe.control, hframe.stk, hframe.machine, hframe.errors, hframe.flow,
      fun hnone => ?_, fun n hn hm h j => ?_⟩
    · rw [verdictOf_cpGR_idle (anyLane_none hnone)]
      exact retire_wrote_address _ _ _ _
    · rw [verdictOf_cpGR_active hn hm, readG_retire_writeG, widenG_eq]
  · have hframe := retire_writeG (wordClass (.ldGI g k imm)) s g k imm
    exact ⟨hframe.lanes, hframe.control, hframe.stk, hframe.machine, hframe.errors, hframe.flow,
      fun h j => readG_retire_writeG _ _ _ _ _ _ _⟩

/-- A step that wrote `CNTR` and `MSTAT` at most, with their new values. -/
structure OnlyControl (s t : State) (cntr : BitVec 16) (mstat : BitVec 1) : Prop where
  lanes : LanesKept s t
  address : AddressKept s t
  stk : StacksKept s t
  machine : MachineKept s t
  errors : NoError s t
  flow : FallsThrough s.lpStk s t
  sstat : t.sstat = s.sstat
  cntr : t.cntr = cntr
  mstat : t.mstat = mstat

theorem retire_control (k : WordClass) (s : State) (v : BitVec 16) (w : BitVec 1) :
    OnlyControl s (retire k s (.wrote { s with cntr := v, mstat := w } none)) v w where
  lanes := retire_wrote_lane _ _ _ _
  address := by constructor <;> simp [retire]
  stk := by constructor <;> simp [retire]
  machine := by constructor <;> simp [retire]
  errors := by constructor <;> simp [retire]
  flow := retire_wrote_flow k s { s with cntr := v, mstat := w } rfl rfl rfl
  sstat := by simp [retire]
  cntr := by simp [retire]
  mstat := by simp [retire]

/-- The verdict of a write of `CNTR` or `MSTAT` by its mask (10_state.md R42). -/
theorem writeCtl_active {ctl : Ctl} {rx : Reg} {c : Cond} {s : State} {n : LaneId}
    (hctl : ctl = .cntr ∨ ctl = .mstat) (h : condHolds c (s.lane n).astatR = true)
    (hm : ∀ m, m < n → condHolds c (s.lane m).astatR = false) :
    verdictOf (.cpCR ctl rx c) s = .wrote { s with
      cntr := if ctl = .cntr then (getR (s.lane n) rx).zeroExtend 16 else s.cntr
      mstat := if ctl = .mstat then (getR (s.lane n) rx).extractLsb' 0 1 else s.mstat } none := by
  obtain ⟨hany, hfirst⟩ := firstLane_of h hm
  rcases hctl with rfl | rfl <;>
    simp [verdictOf, writeCtlVerdict, ctlReadOnly, hany, firstValue, hfirst]

theorem writeCtl_idle {ctl : Ctl} {rx : Reg} {c : Cond} {s : State}
    (hctl : ctl = .cntr ∨ ctl = .mstat) (h : anyLane (realMask s c) = false) :
    verdictOf (.cpCR ctl rx c) s = .wrote s none := by
  rcases hctl with rfl | rfl <;> simp [verdictOf, writeCtlVerdict, ctlReadOnly, h]

theorem loadCtl_shared {ctl : Ctl} (imm : BitVec 16) (s : State)
    (hctl : ctl = .cntr ∨ ctl = .mstat) :
    verdictOf (.ldCI ctl imm) s = .wrote { s with
      cntr := if ctl = .cntr then imm else s.cntr
      mstat := if ctl = .mstat then imm.extractLsb' 0 1 else s.mstat } none := by
  rcases hctl with rfl | rfl <;> rfl

/-- With or without an active lane, nothing but the two registers is written. -/
theorem exec_writeCtl_frame {ctl : Ctl} (rx : Reg) (c : Cond) (s : State)
    (hctl : ctl = .cntr ∨ ctl = .mstat) (k : WordClass) :
    ∃ v w, OnlyControl s (retire k s (verdictOf (.cpCR ctl rx c) s)) v w := by
  cases hany : anyLane (realMask s c) with
  | false =>
    rw [writeCtl_idle hctl hany]
    exact ⟨s.cntr, s.mstat, retire_control k s s.cntr s.mstat⟩
  | true =>
    obtain ⟨hfirst, hlower⟩ := firstLane_spec _ hany
    simp only [realMask_get] at hfirst hlower
    rw [writeCtl_active hctl hfirst hlower]
    exact ⟨_, _, retire_control k s _ _⟩

/-- Settles O44. -/
theorem sharedControlWrites : Obligations.SharedControlWrites := by
  refine ⟨fun ctl rx c s hctl => ⟨_, exec_eq _ _, ?_⟩, fun ctl imm s hctl => ⟨_, exec_eq _ _, ?_⟩⟩
  · obtain ⟨v, w, h⟩ := exec_writeCtl_frame rx c s hctl (wordClass (.cpCR ctl rx c))
    refine ⟨h.lanes, h.address, h.stk, h.machine, h.errors, h.flow, h.sstat, fun hnone => ?_,
      fun n hn hm => ?_⟩
    · rw [writeCtl_idle hctl (anyLane_none hnone)]
      have hsame := retire_wrote_control (wordClass (.cpCR ctl rx c)) s s none
      exact ⟨hsame.cntr, hsame.mstat⟩
    · rw [writeCtl_active hctl hn hm]
      have hnew := retire_control (wordClass (.cpCR ctl rx c)) s
        (if ctl = .cntr then (getR (s.lane n) rx).zeroExtend 16 else s.cntr)
        (if ctl = .mstat then (getR (s.lane n) rx).extractLsb' 0 1 else s.mstat)
      exact ⟨hnew.cntr, hnew.mstat⟩
  · rw [loadCtl_shared imm s hctl]
    have h := retire_control (wordClass (.ldCI ctl imm)) s
      (if ctl = .cntr then imm else s.cntr)
      (if ctl = .mstat then imm.extractLsb' 0 1 else s.mstat)
    exact ⟨h.lanes, h.address, h.stk, h.machine, h.errors, h.flow, h.sstat, h.cntr, h.mstat⟩

/-! ## Whole-bundle writes -/

theorem setBundle_bundles (ctl : Ctl) (v : FlagBundle) (ln : LaneState) :
    (setBundle ctl v ln).astatR = (if ctl = .astatR then v else ln.astatR) ∧
      (setBundle ctl v ln).astatI = (if ctl = .astatI then v else ln.astatI) ∧
      (setBundle ctl v ln).astatC = (if ctl = .astatC then v else ln.astatC) := by
  cases ctl <;> exact ⟨rfl, rfl, rfl⟩

/-- Both whole-bundle writes as one masked write. -/
theorem verdictOf_cpCR_bundle {ctl : Ctl} (rx : Reg) (c : Cond) (s : State)
    (hctl : ctl = .astatR ∨ ctl = .astatI ∨ ctl = .astatC) :
    verdictOf (.cpCR ctl rx c) s =
      .wrote (mapMask s (realMask s c) fun _ ln => setBundle ctl (getR ln rx) ln) none := by
  rcases hctl with rfl | rfl | rfl <;> rfl

theorem verdictOf_ldCI_bundle {ctl : Ctl} (imm : BitVec 16) (s : State)
    (hctl : ctl = .astatR ∨ ctl = .astatI ∨ ctl = .astatC) :
    verdictOf (.ldCI ctl imm) s =
      .wrote (mapMask s fullMask fun _ ln => setBundle ctl (imm.extractLsb' 0 12) ln) none := by
  rcases hctl with rfl | rfl | rfl <;> rfl

/-- Settles O45: the mask and the value are those of the instruction, the write is `setBundle`. -/
theorem flagBundleWrites : Obligations.FlagBundleWrites := by
  intro i ctl active value s hctl hi
  obtain ⟨k, f, hv, hk, hf⟩ : ∃ (k : Mask) (f : LaneId → LaneState → LaneState),
      verdictOf i s = .wrote (mapMask s k f) none ∧ (∀ n, k.get n = active n) ∧
      ∀ n, f n (s.lane n) = setBundle ctl (value n) (s.lane n) := by
    rcases hi with ⟨rx, c, rfl, rfl, rfl⟩ | ⟨imm, rfl, rfl, rfl⟩
    · exact ⟨_, _, verdictOf_cpCR_bundle rx c s hctl, fun n => realMask_get s c n, fun _ => rfl⟩
    · exact ⟨_, _, verdictOf_ldCI_bundle imm s hctl, fullMask_get, fun _ => rfl⟩
  refine ⟨_, exec_eq _ _, ?_⟩
  rw [hv]
  obtain ⟨honly, hlanes⟩ := retire_onlyLanes (wordClass i) s k f
  refine ⟨honly, fun n => ⟨fun hoff => by rw [hlanes, hk, hoff]; rfl, fun hon => ?_⟩⟩
  have hlane := hlanes n
  rw [hk, hon, if_pos rfl, hf] at hlane
  obtain ⟨hreal, himag, hcomb⟩ := setBundle_bundles ctl (value n) (s.lane n)
  refine ⟨by rw [hlane, hreal], by rw [hlane, himag], by rw [hlane, hcomb], fun r => ?_,
    fun q => ?_, fun a => ?_⟩
  · exact getR_congr (by rw [hlane, setBundle_r]) r
  · exact getAcc_congr (by rw [hlane, setBundle_acc]) q
  · rw [dataWord, hlane, setBundle_dm]; rfl

end Sys2Proof.Machine
end

section
/-! PROOFS. Loads and stores (spec/44_move_load_store.md R286 to R293) and the errors of single-issue words. -/

namespace Sys2Proof.Machine

/-! ## The twenty load and store words -/

/-- The mask of a load or store: every lane for an absolute address, which has no condition (R40), else
the condition on the bundle of the mnemonic's class (R39). -/
def memMask (op : MemOp) (mode : Mode) (c : Cond) (s : State) : Mask :=
  match mode with
  | .abs _ => fullMask
  | _ => if op.cplx then complexMask s c else realMask s c

theorem memMask_get (op : MemOp) (mode : Mode) (r : Reg) (c : Cond) (s : State) (n : LaneId) :
    (memMask op mode c s).get n = laneSelected (memInstr op mode r c) s n := by
  cases op <;> cases mode <;>
    simp [memMask, memInstr, laneSelected, condField, complexClass, MemOp.cplx]

/-- What a load or store does in a lane. -/
def memLane (op : MemOp) (r : Reg) (ea : Addr) (n : LaneId) (ln : LaneState) : LaneState :=
  match op with
  | .ld => loadLane ea r n ln
  | .st => storeLane ea r ln
  | .ldC => loadPairLane ea r n ln
  | .stC => storePairLane ea r ln

theorem verdictOf_memInstr (op : MemOp) (mode : Mode) (r : Reg) (c : Cond) (s : State) :
    verdictOf (memInstr op mode r c) s =
      memVerdict op.cplx mode (memMask op mode c s) s (memLane op r) := by
  cases op <;> cases mode <;> rfl

/-- A load or store at an address that passes the checks. -/
theorem exec_memInstr {op : MemOp} {mode : Mode} {r : Reg} {c : Cond} {s : State}
    {P : State → LaneId → Prop} (ha : AddressOk s op.cplx (effAddr s mode))
    (hP : ∀ t n, t.lane n = memLane op r (effAddr s mode) n (s.lane n) → P t n) :
    ∃ t, exec (memInstr op mode r c) s = .next t ∧
      MemoryStep (memInstr op mode r c) (modeWrites s mode) s t ∧ ∀ n,
      (laneSelected (memInstr op mode r c) s n = false → t.lane n = s.lane n) ∧
      (laneSelected (memInstr op mode r c) s n = true → P t n) :=
  exec_memory (verdictOf_memInstr op mode r c s) (memMask_get op mode r c s) ha hP

/-! ## What a lane becomes -/

theorem loadLane_done {s t : State} {n : LaneId} {r : Reg} {ea : Addr}
    (ht : t.lane n = loadLane ea r n (s.lane n)) :
    getR (t.lane n) r = dataWord s n ea ∧ LaneFrame [r] [] [] [] [] [] s t n :=
  ⟨by rw [ht, loadLane, getR_setR, if_pos rfl]; rfl,
    laneFrame_of ht (fun q hq => getR_setR_frame _ _ _ _ hq) (fun _ _ => rfl) (fun _ _ => rfl)
      (fun _ _ => rfl) (fun _ _ => rfl) (fun _ _ => rfl)⟩

theorem loadPairLane_done {s t : State} {n : LaneId} {r : Reg} {ea : Addr}
    (ht : t.lane n = loadPairLane ea r n (s.lane n)) :
    getR (t.lane n) r = dataWord s n ea ∧ getR (t.lane n) (oddOf r) = dataWord s n (ea + 1) ∧
      LaneFrame [r, oddOf r] [] [] [] [] [] s t n :=
  ⟨by rw [ht, loadPairLane, getR_setR, if_neg (oddOf_ne r), getR_setR, if_pos rfl]; rfl,
    by rw [ht, loadPairLane, getR_setR, if_pos rfl]; rfl,
    laneFrame_of ht (fun q hq => getR_setPair_frame _ _ _ _ _ _ hq) (fun _ _ => rfl)
      (fun _ _ => rfl) (fun _ _ => rfl) (fun _ _ => rfl) (fun _ _ => rfl)⟩

theorem dmRead_dmWrite_frame (n : LaneId) (mem : Memory 12) (ea a : Addr) (v : DWord)
    (h : a ∉ [ea]) : dmRead n (dmWrite mem ea v) a = dmRead n mem a := by
  rw [dmRead_dmWrite, if_neg (by simp at h; exact fun e => h e.symm)]

theorem dmRead_dmWritePair_frame (n : LaneId) (mem : Memory 12) (ea eb a : Addr) (v w : DWord)
    (h : a ∉ [ea, eb]) : dmRead n (dmWrite (dmWrite mem ea v) eb w) a = dmRead n mem a := by
  simp at h
  rw [dmRead_dmWrite, if_neg (fun e => h.2 e.symm), dmRead_dmWrite, if_neg (fun e => h.1 e.symm)]

theorem storeLane_done {s t : State} {n : LaneId} {r : Reg} {ea : Addr}
    (ht : t.lane n = storeLane ea r (s.lane n)) :
    dataWord t n ea = getR (s.lane n) r ∧ LaneFrame [] [] [] [] [] [ea] s t n :=
  ⟨by rw [dataWord, ht, storeLane, dmRead_dmWrite, if_pos rfl],
    laneFrame_of ht (fun _ _ => rfl) (fun _ _ => rfl) (fun _ _ => rfl) (fun _ _ => rfl)
      (fun _ _ => rfl) (fun a hm => dmRead_dmWrite_frame _ _ _ _ _ hm)⟩

theorem addr_succ_ne (a : Addr) : a + 1 ≠ a := by
  intro h
  have := congrArg BitVec.toNat h
  rw [BitVec.toNat_add] at this
  have hlt := a.isLt
  simp at this
  omega

theorem storePairLane_done {s t : State} {n : LaneId} {r : Reg} {ea : Addr}
    (ht : t.lane n = storePairLane ea r (s.lane n)) :
    dataWord t n ea = getR (s.lane n) r ∧ dataWord t n (ea + 1) = getR (s.lane n) (oddOf r) ∧
      LaneFrame [] [] [] [] [] [ea, ea + 1] s t n :=
  ⟨by rw [dataWord, ht, storePairLane, dmRead_dmWrite, if_neg (addr_succ_ne ea), dmRead_dmWrite,
      if_pos rfl],
    by rw [dataWord, ht, storePairLane, dmRead_dmWrite, if_pos rfl],
    laneFrame_of ht (fun _ _ => rfl) (fun _ _ => rfl) (fun _ _ => rfl) (fun _ _ => rfl)
      (fun _ _ => rfl) (fun a hm => dmRead_dmWritePair_frame _ _ _ _ _ _ _ hm)⟩

/-- Settles O46. -/
theorem loads : Obligations.Loads := by
  intro op mode r c s hop _ ha
  refine exec_memInstr ha fun t n ht => ?_
  rcases hop with rfl | rfl
  · exact ⟨fun _ => loadLane_done ht, nofun⟩
  · exact ⟨nofun, fun _ => loadPairLane_done ht⟩

/-- Settles O47. -/
theorem stores : Obligations.Stores := by
  intro op mode r c s hop _ ha
  refine exec_memInstr ha fun t n ht => ?_
  rcases hop with rfl | rfl
  · exact ⟨fun _ => storeLane_done ht, nofun⟩
  · exact ⟨nofun, fun _ => storePairLane_done ht⟩

/-! ## Errors of single-issue words -/

theorem exec_raised {i : Instr} {s : State} {cls : ErrorClass} {info : ErrorInfo}
    (hv : verdictOf i s = .raised cls info) : ∃ t, exec i s = .next t ∧ ErrorStep cls s t :=
  ⟨_, exec_eq _ _, by rw [hv]; exact retire_raised _ _ _ _⟩

theorem exec_transfer_error {i : Instr} {s : State} {b : Bool} {v : Verdict}
    (hv : verdictOf i s = checkedTransfer s b v) (h : transferCheck s b ≠ none) :
    ∃ t, exec i s = .next t ∧ ErrorStep .struct s t := by
  obtain ⟨t, ht⟩ := checkedTransfer_raised h v
  exact exec_raised (hv.trans ht)

/-- Settles O48. -/
theorem singleWordErrors : Obligations.SingleWordErrors := by
  refine ⟨fun op mode r c s ha => ?_, fun i s hno hi => ?_, fun off term s hno => ?_,
    fun ctl rx c imm s hctl => ?_⟩
  · exact exec_memory_error (verdictOf_memInstr op mode r c s) ha
  · have hcheck : transferCheck s true ≠ none := fun h => hno ((transferCheck_true s).mp h)
    rcases hi with ⟨off, c, rfl⟩ | ⟨off, c, rfl⟩ | ⟨c, rfl⟩
    · exact exec_transfer_error rfl hcheck
    · exact exec_transfer_error rfl hcheck
    · exact exec_transfer_error rfl hcheck
  · exact exec_transfer_error rfl fun h => hno ((transferCheck_false s).mp h)
  · rcases hctl with rfl | rfl
    · exact ⟨exec_raised rfl, exec_raised rfl⟩
    · exact ⟨exec_raised rfl, exec_raised rfl⟩

end Sys2Proof.Machine
end

section
/-! PROOFS. Multifunction bundles (spec/47_multifunction.md R380 to R389). -/

namespace Sys2Proof.Machine

/-! ## Bundles with one memory slot -/

/-- A memory word whose lanes are selected by the real bundle. -/
theorem exec_memory_real {i : Instr} {s : State} {mode : Mode} {c : Cond}
    {f : Addr → LaneId → LaneState → LaneState} {P : State → LaneId → Prop}
    (hv : verdictOf i s = memVerdict false mode (realMask s c) s f)
    (hsel : ∀ n, laneSelected i s n = condHolds c (s.lane n).astatR)
    (ha : AddressOk s false (effAddr s mode))
    (hP : ∀ t n, t.lane n = f (effAddr s mode) n (s.lane n) → P t n) :
    ∃ t, exec i s = .next t ∧ MemoryStep i (modeWrites s mode) s t ∧ ∀ n,
      (condHolds c (s.lane n).astatR = false → t.lane n = s.lane n) ∧
      (condHolds c (s.lane n).astatR = true → P t n) := by
  simpa only [hsel] using exec_memory hv (fun n => by rw [realMask_get, hsel]) ha hP

theorem laneSelected_aluBundle (op : AluOp) (rd rx ry : Reg) (lrd : Reg8) (li lm : Ix4) (c : Cond)
    (s : State) (n : LaneId) :
    laneSelected (aluBundle op rd rx ry lrd li lm c) s n = condHolds c (s.lane n).astatR := by
  cases op <;> rfl

theorem verdictOf_aluBundle (op : AluOp) (rd rx ry : Reg) (lrd : Reg8) (li lm : Ix4) (c : Cond)
    (s : State) :
    verdictOf (aluBundle op rd rx ry lrd li lm c) s = aluLdVerdict op rd rx ry lrd li lm c s := by
  cases op <;> rfl

/-- With different destinations the bundle is a memory word. -/
theorem aluLdVerdict_ne {op : AluOp} {rd rx ry : Reg} {lrd : Reg8} {li lm : Ix4} {c : Cond}
    {s : State} (hne : rd ≠ reg8 lrd) :
    aluLdVerdict op rd rx ry lrd li lm c s =
      memVerdict false (lowMode li lm) (realMask s c) s fun ea n ln =>
        setR (putComputed ln rd (aluLane op rx (getR ln ry) ln)) (reg8 lrd) (dmRead n ln.dm ea) :=
  if_neg hne

/-- Settles O56: the load's write comes after the ALU's and meets neither its register nor its flags. -/
theorem aluLoadBundles : Obligations.AluLoadBundles := by
  intro op rd rx ry lrd li lm c s hne ha
  have hv := (verdictOf_aluBundle op rd rx ry lrd li lm c s).trans (aluLdVerdict_ne hne)
  refine exec_memory_real hv (laneSelected_aluBundle op rd rx ry lrd li lm c s) ha fun t n ht => ?_
  have hflags := aluCompute_flags op (getR (s.lane n) rx) (getR (s.lane n) ry)
    (flagOf (s.lane n).astatR .ac)
  have hstat : (t.lane n).astatR = setFlags (s.lane n).astatR
      (aluLane op rx (getR (s.lane n) ry) (s.lane n)).flags := by rw [ht]; rfl
  rw [aluLane, hflags] at hstat
  refine ⟨?_, ?_, ?_, laneFrame_of ht (fun q hq => ?_) (fun _ _ => rfl) (fun f hf => ?_)
    (fun _ _ => rfl) (fun _ _ => rfl) (fun _ _ => rfl)⟩
  · rw [ht, getR_setR, if_neg hne.symm, getR_putComputed, aluLane, aluCompute_r]
  · rw [ht, getR_setR, if_pos rfl]; rfl
  · rw [hstat]; exact aluFlags_spec _ _ _ _
  · exact getR_setPair_frame _ _ _ _ _ _ hq
  · rw [← ht, hstat]; exact aluFlags_frame _ _ _ _ _ hf

theorem laneSelected_macBundle (kind : MacKind) (o : MacOpt) (acc : AccIx) (rx ry : Reg)
    (lrd : Reg8) (li lm : Ix4) (c : Cond) (s : State) (n : LaneId) :
    laneSelected (macBundle kind o acc rx ry lrd li lm c) s n = condHolds c (s.lane n).astatR := by
  cases kind <;> rfl

theorem verdictOf_macBundle (kind : MacKind) (o : MacOpt) (acc : AccIx) (rx ry : Reg) (lrd : Reg8)
    (li lm : Ix4) (c : Cond) (s : State) :
    verdictOf (macBundle kind o acc rx ry lrd li lm c) s =
      memVerdict false (lowMode li lm) (realMask s c) s fun ea n ln =>
        setR (macLane kind o acc rx ry ln) (reg8 lrd) (dmRead n ln.dm ea) := by
  cases kind <;> rfl

/-- Settles O57. -/
theorem macLoadBundles : Obligations.MacLoadBundles := by
  intro kind o acc rx ry lrd li lm c s ha
  refine exec_memory_real (verdictOf_macBundle kind o acc rx ry lrd li lm c s)
    (laneSelected_macBundle kind o acc rx ry lrd li lm c s) ha fun t n ht =>
      ⟨macDone_of (by rw [ht, getAcc_setR]) (by rw [ht, setR_astatR]), ?_,
        laneFrame_of ht (fun q hq => getR_setR_frame _ _ _ _ hq) (macLane_accs _ _ _ _ _ _)
          (macLane_flags _ _ _ _ _ _) (fun _ _ => rfl) (fun _ _ => rfl) (fun _ _ => rfl)⟩
  rw [ht, getR_setR, if_pos rfl]
  rfl

theorem laneSelected_shiftBundle (kind : ShiftKind) (rd rx ry : Reg) (srs : Reg8) (si sm : Ix4)
    (c : Cond) (s : State) (n : LaneId) :
    laneSelected (shiftBundle kind rd rx ry srs si sm c) s n = condHolds c (s.lane n).astatR := by
  cases kind <;> rfl

/-- The store of a bundle takes the register from the lane before the shift (R387). -/
def shiftStLane (kind : ShiftKind) (rd rx ry : Reg) (srs : Reg8) (ea : Addr) (ln : LaneState) :
    LaneState :=
  { putComputed ln rd (shiftLane kind rx (.reg ry) ln) with
    dm := dmWrite ln.dm ea (getR ln (reg8 srs)) }

theorem verdictOf_shiftBundle (kind : ShiftKind) (rd rx ry : Reg) (srs : Reg8) (si sm : Ix4)
    (c : Cond) (s : State) :
    verdictOf (shiftBundle kind rd rx ry srs si sm c) s =
      memVerdict false (lowMode si sm) (realMask s c) s fun ea _ ln =>
        shiftStLane kind rd rx ry srs ea ln := by
  cases kind <;> rfl

theorem getR_shiftStLane (kind : ShiftKind) (rd rx ry : Reg) (srs : Reg8) (ea : Addr)
    (ln : LaneState) (q : Reg) :
    getR (shiftStLane kind rd rx ry srs ea ln) q =
      getR (putComputed ln rd (shiftLane kind rx (.reg ry) ln)) q := rfl

theorem astatR_shiftStLane (kind : ShiftKind) (rd rx ry : Reg) (srs : Reg8) (ea : Addr)
    (ln : LaneState) :
    (shiftStLane kind rd rx ry srs ea ln).astatR =
      setFlags ln.astatR (shiftLane kind rx (.reg ry) ln).flags := rfl

theorem dm_shiftStLane (kind : ShiftKind) (rd rx ry : Reg) (srs : Reg8) (ea : Addr)
    (ln : LaneState) :
    (shiftStLane kind rd rx ry srs ea ln).dm = dmWrite ln.dm ea (getR ln (reg8 srs)) := rfl

/-- Settles O59. -/
theorem shiftStoreBundles : Obligations.ShiftStoreBundles := by
  intro kind rd rx ry srs si sm c s ha
  refine exec_memory_real (verdictOf_shiftBundle kind rd rx ry srs si sm c s)
    (laneSelected_shiftBundle kind rd rx ry srs si sm c s) ha fun t n ht =>
      ⟨shiftDone_of ?_ ?_, ?_, laneFrame_of ht (fun q hq => ?_) (fun _ _ => rfl) (fun f hf => ?_)
        (fun _ _ => rfl) (fun _ _ => rfl) (fun a hm => ?_)⟩
  · rw [ht, getR_shiftStLane, getR_putComputed]
  · rw [ht, astatR_shiftStLane]
  · rw [dataWord, ht, dm_shiftStLane, dmRead_dmWrite, if_pos rfl]
  · rw [getR_shiftStLane]; exact getR_setR_frame _ _ _ _ hq
  · rw [astatR_shiftStLane, shiftLane_frame _ _ _ _ _ hf]
  · rw [dm_shiftStLane]; exact dmRead_dmWrite_frame _ _ _ _ _ hm

/-! ## Two loads -/

/-- The index registers of the two loads of a 3-way bundle are different (30_encoding.md R111). -/
theorem lowIx_ne_highIx (a b : Ix4) : lowIx a ≠ highIx b := by
  intro h
  have := congrArg Fin.val h
  have ha := a.isLt
  simp only [lowIx, highIx] at this
  omega

theorem lookup_two (p q k : GIx) (a b : Addr) :
    ([(p, a), (q, b)] : List (GIx × Addr)).lookup k =
      if k = p then some a else if k = q then some b else none := by
  by_cases hp : k = p
  · subst hp; simp
  · have hp' : (k == p) = false := by simpa using hp
    by_cases hq : k = q
    · subst hq; simp [List.lookup, hp, hp']
    · have hq' : (k == q) = false := by simpa using hq
      simp [List.lookup, hp, hp', hq, hq']

/-- Two post-modify updates of different registers, both made iff some lane is active. -/
theorem applyPost_two_index (s v : State) (k : Mask) (i j : GIx) (a b : Addr) (hij : i ≠ j)
    (hk : anyLane k = true) (hi : v.i = s.i) (q : GIx) :
    readG (applyPost (applyPost v k (some (i, a))) k (some (j, b))) .i q =
      (([(i, a), (j, b)] : List (GIx × Addr)).lookup q).getD (readG s .i q) := by
  have hv : readG v .i q = readG s .i q := by simp [readG, hi]
  rw [applyPost_some _ _ _ _ hk, applyPost_some _ _ _ _ hk, readG_writeG, readG_writeG, hv]
  rw [lookup_two]
  by_cases hqi : q = i
  · subst hqi; simp [hij.symm]
  · by_cases hqj : q = j
    · subst hqj; simp [hqi]
    · simp [hqi, hqj, Ne.symm hqi, Ne.symm hqj]

/-- The frame of a word that wrote lanes and two index registers. -/
theorem memoryStep_two {i : Instr} {s : State} {k : Mask} {f : LaneId → LaneState → LaneState}
    {p q : GIx} {a b : Addr} (hk : ∀ n, k.get n = laneSelected i s n) (hpq : p ≠ q) :
    MemoryStep i [(p, a), (q, b)] s (retire (wordClass i) s
      (.wrote (applyPost (applyPost (mapMask s k f) k (some (p, a))) k (some (q, b))) none)) := by
  have hany : anyLane k = true ↔ ∃ n, laneSelected i s n = true := by rw [anyLane_iff]; simp [hk]
  have hkept := retire_wrote_address (wordClass i) s
    (applyPost (applyPost (mapMask s k f) k (some (p, a))) k (some (q, b))) none
  refine ⟨fun hsome => ?_, fun hnone => ?_, ?_, ?_, ?_, ?_, ?_⟩
  · have hon := hany.mpr hsome
    refine ⟨fun j => ?_, ?_, ?_, ?_⟩
    · rw [readG_congr hkept.i hkept.m hkept.l hkept.b]
      exact applyPost_two_index s (mapMask s k f) k p q a b hpq hon rfl j
    all_goals simp [retire, applyPost, hon, writeG]
  · have hoff : anyLane k = false := by
      rw [Bool.eq_false_iff, Ne, hany]
      rintro ⟨n, hn⟩
      exact absurd (hn.symm.trans (hnone n)) (by decide)
    rw [applyPost_idle _ _ _ hoff, applyPost_idle _ _ _ hoff]
    constructor <;> simp [retire]
  · constructor <;> simp [retire]
  · constructor <;> simp [retire]
  · constructor <;> simp [retire]
  · constructor <;> simp [retire]
  · have h := retire_wrote_flow (wordClass i) s
      (applyPost (applyPost (mapMask s k f) k (some (p, a))) k (some (q, b)))
      (by simp) (by simp) (by simp)
    simpa only [applyPost_lpStk, mapMask_lpStk] using h

theorem laneSelected_macBundle3 (kind : MacKind) (o : MacOpt1) (acc : Acc4) (rx ry r1 : Reg8)
    (i1 m1 : Ix4) (r2 : Reg8) (i2 m2 : Ix4) (c : Cond) (s : State) (n : LaneId) :
    laneSelected (macBundle3 kind o acc rx ry r1 i1 m1 r2 i2 m2 c) s n =
      condHolds c (s.lane n).astatR := by
  cases kind <;> rfl

theorem verdictOf_macBundle3 (kind : MacKind) (o : MacOpt1) (acc : Acc4) (rx ry r1 : Reg8)
    (i1 m1 : Ix4) (r2 : Reg8) (i2 m2 : Ix4) (c : Cond) (s : State) :
    verdictOf (macBundle3 kind o acc rx ry r1 i1 m1 r2 i2 m2 c) s =
      macLdLdVerdict kind o acc rx ry r1 i1 m1 r2 i2 m2 c s := by
  cases kind <;> rfl

/-- One lane of a 3-way bundle. -/
def macLdLdLane (kind : MacKind) (o : MacOpt1) (acc : Acc4) (rx ry r1 r2 : Reg8) (ea1 ea2 : Addr)
    (n : LaneId) (ln : LaneState) : LaneState :=
  setR (setR (macLane kind (macOptOf1 o) (acc4 acc) (reg8 rx) (reg8 ry) ln) (reg8 r1)
    (dmRead n ln.dm ea1)) (reg8 r2) (dmRead n ln.dm ea2)

/-- With different destinations and both addresses good a 3-way bundle writes. -/
theorem macLdLdVerdict_ok {kind : MacKind} {o : MacOpt1} {acc : Acc4} {rx ry r1 : Reg8}
    {i1 m1 : Ix4} {r2 : Reg8} {i2 m2 : Ix4} {c : Cond} {s : State} (hne : r1 ≠ r2)
    (h1 : AddressOk s false (effAddr s (lowMode i1 m1)))
    (h2 : AddressOk s false (effAddr s (highMode i2 m2))) :
    macLdLdVerdict kind o acc rx ry r1 i1 m1 r2 i2 m2 c s =
      .wrote (applyPost (applyPost (mapMask s (realMask s c)
          (macLdLdLane kind o acc rx ry r1 r2 (effAddr s (lowMode i1 m1))
            (effAddr s (highMode i2 m2)))) (realMask s c) (postUpdate s (lowMode i1 m1)))
        (realMask s c) (postUpdate s (highMode i2 m2))) none := by
  simp only [macLdLdVerdict, if_neg hne, addrCheck_ok _ _ _ h1, addrCheck_ok _ _ _ h2]
  rfl

theorem reg8_inj {a b : Reg8} (h : reg8 a = reg8 b) : a = b := by
  have hval := congrArg Fin.val h
  exact Fin.ext hval

/-- Settles O58. -/
theorem macLoadLoadBundles : Obligations.MacLoadLoadBundles := by
  intro kind o acc rx ry r1 i1 m1 r2 i2 m2 c s hne h1 h2
  have hsel := laneSelected_macBundle3 kind o acc rx ry r1 i1 m1 r2 i2 m2 c s
  refine ⟨_, exec_eq _ _, ?_⟩
  rw [verdictOf_macBundle3, macLdLdVerdict_ok hne h1 h2]
  refine ⟨memoryStep_two (fun n => by rw [realMask_get, hsel]) (lowIx_ne_highIx _ _), fun n => ?_⟩
  generalize ht : retire _ s _ = t
  have hlane : t.lane n = if condHolds c (s.lane n).astatR then
      macLdLdLane kind o acc rx ry r1 r2 (effAddr s (lowMode i1 m1)) (effAddr s (highMode i2 m2)) n
        (s.lane n) else s.lane n := by
    rw [← ht, retire_wrote_lane, applyPost_lane, applyPost_lane, lane_mapMask, realMask_get]
  refine ⟨fun hoff => by rw [hlane, hoff]; rfl, fun hon => ?_⟩
  rw [hon, if_pos rfl] at hlane
  have hdone : MacDone kind (macOptOf1 o) (acc4 acc) (reg8 rx) (reg8 ry) s t n :=
    macDone_of (by rw [hlane]; rfl) (by rw [hlane]; rfl)
  refine ⟨by cases o <;> exact hdone, ?_, ?_,
    laneFrame_of hlane (fun q hq => getR_setPair_frame _ _ _ _ _ _ hq) (macLane_accs _ _ _ _ _ _)
      (macLane_flags _ _ _ _ _ _) (fun _ _ => rfl) (fun _ _ => rfl) (fun _ _ => rfl)⟩
  · rw [hlane, macLdLdLane, getR_setR, if_neg fun h => hne (reg8_inj h).symm, getR_setR, if_pos rfl]
    rfl
  · rw [hlane, macLdLdLane, getR_setR, if_pos rfl]
    rfl

/-! ## Errors of bundles -/

theorem macLdLdVerdict_bad {kind : MacKind} {o : MacOpt1} {acc : Acc4} {rx ry r1 : Reg8}
    {i1 m1 : Ix4} {r2 : Reg8} {i2 m2 : Ix4} {c : Cond} {s : State} (hne : r1 ≠ r2)
    (h : ¬AddressOk s false (effAddr s (lowMode i1 m1)) ∨
      ¬AddressOk s false (effAddr s (highMode i2 m2))) :
    ∃ ea, macLdLdVerdict kind o acc rx ry r1 i1 m1 r2 i2 m2 c s = .raised .addr (.address ea) := by
  by_cases h1 : AddressOk s false (effAddr s (lowMode i1 m1))
  · have h2 := h.resolve_left (not_not_intro h1)
    exact ⟨effAddr s (highMode i2 m2), by
      simp only [macLdLdVerdict, if_neg hne, addrCheck_ok _ _ _ h1, addrCheck_bad _ _ _ h2]⟩
  · exact ⟨effAddr s (lowMode i1 m1), by
      simp only [macLdLdVerdict, if_neg hne, addrCheck_bad _ _ _ h1]⟩

/-- Settles O60. -/
theorem bundleErrors : Obligations.BundleErrors := by
  refine ⟨fun op rd rx ry lrd li lm c s => ⟨fun heq => ?_, fun hne ha => ?_⟩,
    fun kind o acc rx ry lrd li lm c s ha => ?_,
    fun kind o acc rx ry r1 i1 m1 r2 i2 m2 c s => ⟨fun heq => ?_, fun hne ha => ?_⟩,
    fun kind rd rx ry srs si sm c s ha => ?_⟩
  · exact exec_raised ((verdictOf_aluBundle op rd rx ry lrd li lm c s).trans (if_pos heq))
  · exact exec_memory_error
      ((verdictOf_aluBundle op rd rx ry lrd li lm c s).trans (aluLdVerdict_ne hne)) ha
  · exact exec_memory_error (verdictOf_macBundle kind o acc rx ry lrd li lm c s) ha
  · exact exec_raised
      ((verdictOf_macBundle3 kind o acc rx ry r1 i1 m1 r2 i2 m2 c s).trans (if_pos heq))
  · obtain ⟨ea, hv⟩ := macLdLdVerdict_bad (kind := kind) (o := o) (acc := acc) (rx := rx) (ry := ry)
      (c := c) hne ha
    exact exec_raised ((verdictOf_macBundle3 kind o acc rx ry r1 i1 m1 r2 i2 m2 c s).trans hv)
  · exact exec_memory_error (verdictOf_shiftBundle kind rd rx ry srs si sm c s) ha

end Sys2Proof.Machine
end

section
/-! PROOFS. Control transfers, the loop set-up (spec/45_control_flow.md R330 to R333) and the status stack
(46_system.md R363, R364). -/

namespace Sys2Proof.Machine

/-! ## The stacks -/

theorem pushPc_room {s : State} (a : Addr) (h : s.pcStk.length < 8) :
    pushPc s a = { s with pcStk := a :: s.pcStk } := if_neg (Nat.not_le.mpr h)

theorem pushPc_full {s : State} (a : Addr) (h : 8 ≤ s.pcStk.length) :
    pushPc s a = markStack s 0 := if_pos h

theorem pushLoop_room {s : State} (e : LoopEntry) (h : s.lpStk.length < 8) :
    pushLoop s e = { s with lpStk := e :: s.lpStk } := if_neg (Nat.not_le.mpr h)

theorem pushLoop_full {s : State} (e : LoopEntry) (h : 8 ≤ s.lpStk.length) :
    pushLoop s e = markStack s 2 := if_pos h

theorem pushStatus_room {s : State} (h : s.stsStk.length < 8) :
    pushStatus s = { s with stsStk := statusEntry s :: s.stsStk } := if_neg (Nat.not_le.mpr h)

theorem pushStatus_full {s : State} (h : 8 ≤ s.stsStk.length) :
    pushStatus s = markStack s 4 := if_pos h

/-- A step that set one sticky bit of `SSTAT`. -/
theorem statusBitsSet_of {s t : State} {bit : Nat} (hb : bit < 6)
    (h : t.sstat = (markStack s bit).sstat) : StatusBitsSet [bit] s t := by
  intro k
  rw [h, markStack, BitVec.getLsbD_or, BitVec.getLsbD_twoPow]
  simp [hb, eq_comm]

/-! ## Transfers that pass their checks -/

theorem checkedTransfer_ok {s : State} {b : Bool} (h : transferCheck s b = none) (v : Verdict) :
    checkedTransfer s b v = v := by simp [checkedTransfer, h]

/-- The frame of a transfer that wrote no more than the stacks and the status register. -/
theorem retire_transferFrame {s u : State} (hu : Untouched s u) (hl : u.lanes = s.lanes)
    (ha : AddressKept s u) (hc : u.cntr = s.cntr) (hm : u.mstat = s.mstat)
    (hs : u.stsStk = s.stsStk) (k : WordClass) (g : Option Addr) :
    TransferFrame s (retire k s (.wrote u g)) := by
  obtain ⟨hparams, him, hhalted⟩ := retire_wrote_machine k s u g
  obtain ⟨hi, hmm, hll, hb⟩ := retire_wrote_address k s u g
  exact
    { lanes := fun n => (retire_wrote_lane _ _ _ _ n).trans (lane_congr hl n)
      address := ⟨hi.trans ha.i, hmm.trans ha.m, hll.trans ha.l, hb.trans ha.b⟩
      cntr := (retire_wrote_control _ _ _ _).cntr.trans hc
      mstat := (retire_wrote_control _ _ _ _).mstat.trans hm
      stsStk := (retire_wrote_stacks _ _ _ _).stsStk.trans hs
      machine := ⟨hparams.trans hu.params, him.trans hu.im, hhalted.trans hu.halted⟩
      errors := ⟨errCnt_wrote hu k g, (retire_wrote_errors k s u g).errLog.trans hu.errLog⟩ }

theorem transferFrame_same (k : WordClass) (s : State) (g : Option Addr) :
    TransferFrame s (retire k s (.wrote s g)) :=
  retire_transferFrame ⟨rfl, rfl, rfl, rfl, rfl, rfl, rfl, rfl, rfl⟩ rfl ⟨rfl, rfl, rfl, rfl⟩ rfl
    rfl rfl k g

/-- A transfer that no lane selects, or that has nothing to return to, goes on with the next word. -/
theorem fallsThrough_same (k : WordClass) (s : State) :
    FallsThrough s.lpStk s (retire k s (.wrote s none)) := retire_wrote_flow k s s rfl rfl rfl

theorem sstat_retire (k : WordClass) (s u : State) (g : Option Addr) :
    (retire k s (.wrote u g)).sstat = u.sstat := (retire_wrote_control k s u g).sstat

theorem pcStk_retire (k : WordClass) (s u : State) (g : Option Addr) :
    (retire k s (.wrote u g)).pcStk = u.pcStk := (retire_wrote_stacks k s u g).pcStk

section Masked

variable {s : State} {c : Cond}

theorem noLane_of_idle (h : anyLane (realMask s c) = false) :
    ¬∃ n, condHolds c (s.lane n).astatR = true := by
  rw [← anyLane_realMask, h]; decide

theorem someLane_of_active (h : anyLane (realMask s c) = true) :
    ¬∀ n, condHolds c (s.lane n).astatR = false := fun hn =>
  absurd (h.symm.trans (anyLane_none hn)) (by decide)

end Masked

/-- Settles O49. -/
theorem jumps : Obligations.Jumps := by
  intro off c s hok
  have hv : verdictOf (.jump off c) s =
      if anyLane (realMask s c) then .wrote s (some (s.pc + off)) else .wrote s none :=
    checkedTransfer_ok ((transferCheck_true s).mpr hok) _
  refine ⟨_, exec_eq _ _, ?_⟩
  rw [hv]
  cases hany : anyLane (realMask s c) with
  | false =>
    exact ⟨transferFrame_same _ _ _, sstat_retire _ _ _ _, pcStk_retire _ _ _ _,
      fun hsome => absurd hsome (noLane_of_idle hany), fun _ => fallsThrough_same _ _⟩
  | true =>
    exact ⟨transferFrame_same _ _ _, sstat_retire _ _ _ _, pcStk_retire _ _ _ _,
      fun _ => retire_wrote_redirects _ _ _ _ rfl rfl rfl rfl rfl,
      fun hnone => absurd hnone (someLane_of_active hany)⟩

theorem untouched_pushPc (s : State) (a : Addr) : Untouched s (pushPc s a) := by
  constructor <;> simp

/-- Settles O50. -/
theorem calls : Obligations.Calls := by
  intro off c s hok
  have hv : verdictOf (.call off c) s = if anyLane (realMask s c) then
      .wrote (pushPc s (returnAddr s)) (some (s.pc + off)) else .wrote s none :=
    checkedTransfer_ok ((transferCheck_true s).mpr hok) _
  refine ⟨_, exec_eq _ _, ?_⟩
  rw [hv]
  cases hany : anyLane (realMask s c) with
  | false =>
    exact ⟨transferFrame_same _ _ _, fun hsome => absurd hsome (noLane_of_idle hany),
      fun _ => ⟨fallsThrough_same _ _, sstat_retire _ _ _ _, pcStk_retire _ _ _ _⟩⟩
  | true =>
    rw [if_pos rfl]
    refine ⟨retire_transferFrame (untouched_pushPc _ _) (by simp) (by constructor <;> simp)
      (by simp) (by simp) (by simp) _ _, fun _ => ⟨?_, fun hroom => ?_, fun hfull => ?_⟩,
      fun hnone => absurd hnone (someLane_of_active hany)⟩
    · exact retire_wrote_redirects _ _ _ _ (by simp) (by simp) (by simp) (by simp) (by simp)
    · rw [sstat_retire, pcStk_retire, pushPc_room _ hroom]
      exact ⟨rfl, rfl⟩
    · rw [pcStk_retire, pushPc_full _ hfull]
      exact ⟨statusBitsSet_of (by decide) (sstat_retire _ _ _ _), rfl⟩

/-- `RTS` with an active lane by the depth of the stack. -/
theorem returnVerdict_cons {s : State} {a : Addr} {rest : List Addr} (h : s.pcStk = a :: rest) :
    returnVerdict s = .wrote { s with pcStk := rest } (some a) := by simp [returnVerdict, h]

theorem returnVerdict_nil {s : State} (h : s.pcStk = []) :
    returnVerdict s = .wrote (markStack s 1) none := by simp [returnVerdict, h]

/-- Settles O51. -/
theorem returns : Obligations.Returns := by
  intro c s hok
  have hv : verdictOf (.rts c) s =
      if anyLane (realMask s c) then returnVerdict s else .wrote s none :=
    checkedTransfer_ok ((transferCheck_true s).mpr hok) _
  refine ⟨_, exec_eq _ _, ?_⟩
  rw [hv]
  cases hany : anyLane (realMask s c) with
  | false =>
    exact ⟨transferFrame_same _ _ _, fun hsome => absurd hsome (noLane_of_idle hany),
      fun _ => ⟨fallsThrough_same _ _, sstat_retire _ _ _ _, pcStk_retire _ _ _ _⟩⟩
  | true =>
    rw [if_pos rfl]
    have hno := someLane_of_active hany
    cases hstk : s.pcStk with
    | nil =>
      rw [returnVerdict_nil hstk]
      refine ⟨retire_transferFrame (s := s) (u := markStack s 1)
        ⟨rfl, rfl, rfl, rfl, rfl, rfl, rfl, rfl, rfl⟩ rfl ⟨rfl, rfl, rfl, rfl⟩ rfl rfl rfl _ _, fun _ => ⟨nofun, fun _ => ⟨?_, ?_, ?_⟩⟩,
        fun hnone => absurd hnone hno⟩
      · exact retire_wrote_flow _ s (markStack s 1) rfl rfl rfl
      · exact statusBitsSet_of (by decide) (sstat_retire _ _ _ _)
      · rw [pcStk_retire, markStack_pcStk, hstk]
    | cons a rest =>
      rw [returnVerdict_cons hstk]
      refine ⟨retire_transferFrame (s := s) (u := { s with pcStk := rest })
        ⟨rfl, rfl, rfl, rfl, rfl, rfl, rfl, rfl, rfl⟩ rfl ⟨rfl, rfl, rfl, rfl⟩ rfl rfl rfl _ _,
        fun _ => ⟨fun b r hb => ?_, nofun⟩,
        fun hnone => absurd hnone hno⟩
      cases hb
      exact ⟨retire_wrote_redirects _ _ _ _ rfl rfl rfl rfl rfl, sstat_retire _ _ _ _,
        pcStk_retire _ _ _ _⟩

/-! ## DO -/

theorem untouched_pushLoop (s : State) (e : LoopEntry) : Untouched s (pushLoop s e) := by
  constructor <;> simp

theorem loopEntry_eq (s : State) (off : BitVec 16) (term : Term) :
    loopEntry s off term = ⟨s.pc + 1, s.pc + 1 + off, s.cntr, decide (term = .forever)⟩ := by
  simp only [loopEntry, beq_eq_decide]

/-- Settles O52. -/
theorem loopSetUp : Obligations.LoopSetUp := by
  intro off term s hok
  have hv : verdictOf (.doUntil off term) s =
      .wrote (pushLoop s (loopEntry s off term)) none :=
    checkedTransfer_ok ((transferCheck_false s).mpr hok) _
  have hu := untouched_pushLoop s (loopEntry s off term)
  refine ⟨_, exec_eq _ _, ?_⟩
  rw [hv]
  refine ⟨retire_transferFrame hu (by simp) (by constructor <;> simp) (by simp) (by simp) (by simp)
    _ _, by rw [pcStk_retire, pushLoop_pcStk], fun hroom => ?_, fun hfull => ?_⟩
  · rw [sstat_retire, pushLoop_room _ hroom, ← loopEntry_eq]
    exact ⟨rfl,
      retire_wrote_flow _ s { s with lpStk := loopEntry s off term :: s.lpStk } rfl rfl rfl⟩
  · rw [pushLoop_full _ hfull]
    exact ⟨statusBitsSet_of (by decide) (sstat_retire _ _ _ _),
      retire_wrote_flow _ s (markStack s 2) rfl rfl rfl⟩

/-! ## PUSH STS and POP STS -/

theorem statusEntry_bundles (s : State) (n : LaneId) : (statusEntry s).bundles.get n =
    ⟨(s.lane n).astatR, (s.lane n).astatI, (s.lane n).astatC⟩ := by
  simp [statusEntry, bundlesOf]

theorem exec_pushSts_spec (s : State) :
    ∃ t, exec .pushSts s = .next t ∧ LanesKept s t ∧ AddressKept s t ∧ MachineKept s t ∧
      NoError s t ∧ FallsThrough s.lpStk s t ∧ t.cntr = s.cntr ∧ t.mstat = s.mstat ∧
      t.pcStk = s.pcStk ∧
      (s.stsStk.length < 8 → t.sstat = s.sstat ∧ ∃ e, t.stsStk = e :: s.stsStk ∧
        e.mstat = s.mstat ∧
        ∀ n, e.bundles.get n = ⟨(s.lane n).astatR, (s.lane n).astatI, (s.lane n).astatC⟩) ∧
      (8 ≤ s.stsStk.length → StatusBitsSet [4] s t ∧ t.stsStk = s.stsStk) := by
  have hstk := fun k => (retire_wrote_stacks k s (pushStatus s) none).stsStk
  refine ⟨_, exec_eq .pushSts s, fun n => ?_, ?_, ?_, ?_, ?_, ?_, ?_, ?_, fun hroom => ?_,
    fun hfull => ?_⟩
  · exact (retire_wrote_lane _ _ _ _ n).trans (lane_congr (by simp) n)
  · constructor <;> simp [verdictOf, retire]
  · constructor <;> simp [verdictOf, retire]
  · constructor <;> simp [verdictOf, retire]
  · have h := retire_wrote_flow (wordClass .pushSts) s (pushStatus s) (by simp) (by simp) (by simp)
    rwa [pushStatus_lpStk] at h
  · simp [verdictOf, retire]
  · simp [verdictOf, retire]
  · simp [verdictOf, retire]
  · exact ⟨(sstat_retire _ _ _ _).trans (by rw [pushStatus_room hroom]), statusEntry s,
      (hstk _).trans (by rw [pushStatus_room hroom]), rfl, statusEntry_bundles s⟩
  · exact ⟨statusBitsSet_of (by decide)
        ((sstat_retire _ _ _ _).trans (by rw [pushStatus_full hfull])),
      (hstk _).trans (by rw [pushStatus_full hfull]; rfl)⟩

theorem popStatus_nil {s : State} (h : s.stsStk = []) : popStatus s = markStack s 5 := by
  simp [popStatus, h]

/-- `POP STS` replaces flag bundles at most. -/
theorem popStatus_lane (s : State) (n : LaneId) :
    ∃ x, (popStatus s).lane n = withBundles (s.lane n) x := by
  cases h : s.stsStk with
  | nil => exact ⟨bundlesOf (s.lane n), by rw [popStatus_nil h]; rfl⟩
  | cons e rest => exact ⟨e.bundles.get n, by simp [popStatus, h, State.lane]⟩

/-- Settles O54. -/
theorem statusPushPop : Obligations.StatusPushPop := by
  refine ⟨exec_pushSts_spec, fun s => ?_⟩
  have hlane := fun k n => retire_wrote_lane k s (popStatus s) none n
  refine ⟨_, exec_eq .popSts s, ?_, ?_, ?_, ?_, ?_, ?_, fun n r => ?_, fun n k => ?_, fun n a => ?_,
    fun e rest hstk => ?_, fun hstk => ?_⟩
  · constructor <;> simp [verdictOf, retire]
  · constructor <;> simp [verdictOf, retire]
  · constructor <;> simp [verdictOf, retire]
  · have h := retire_wrote_flow (wordClass .popSts) s (popStatus s) (by simp) (by simp) (by simp)
    rwa [popStatus_lpStk] at h
  · simp [verdictOf, retire]
  · simp [verdictOf, retire]
  · obtain ⟨x, hx⟩ := popStatus_lane s n
    exact getR_congr (by rw [verdictOf, hlane, hx, withBundles_r]) r
  · obtain ⟨x, hx⟩ := popStatus_lane s n
    exact getAcc_congr (by rw [verdictOf, hlane, hx, withBundles_acc]) k
  · obtain ⟨x, hx⟩ := popStatus_lane s n
    rw [dataWord, verdictOf, hlane, hx, withBundles_dm]
    rfl
  · obtain ⟨hmstat, hrest, hlanes⟩ := exec_popSts_restores (exec_eq .popSts s) hstk
    refine ⟨hrest, hmstat, (sstat_retire _ _ _ _).trans (by simp [popStatus, hstk]), fun n => ?_⟩
    rw [hlanes n]
    exact ⟨rfl, rfl, rfl⟩
  · rw [verdictOf, popStatus_nil hstk]
    have hkept := retire_wrote_stacks (wordClass .popSts) s (markStack s 5) none
    have hcontrol := retire_wrote_control (wordClass .popSts) s (markStack s 5) none
    exact ⟨hkept.stsStk.trans hstk, hcontrol.mstat, statusBitsSet_of (by decide) hcontrol.sstat,
      fun n => retire_wrote_lane _ _ _ _ n⟩

end Sys2Proof.Machine
end

section
/-! PROOFS. The encoder emits one word per record (spec/30_encoding.md R152, R153). -/

namespace Sys2Proof.Machine

/-! ## What the encoder selects -/

/-- An instruction that passes the last checks is well formed. -/
theorem wf_of_checkOperands {c : Cond} {h : Operation} {x : Selected} {i : Instr}
    (hx : checkOperands c h x = .ok i) : i.wf = true := by
  cases x with
  | error e => exact absurd hx nofun
  | ok j =>
    simp only [checkOperands, wrongOperand, wrongToken] at hx
    cases hwf : j.wf with
    | false =>
      simp only [hwf, Bool.not_false, if_true] at hx
      split at hx <;> exact absurd hx nofun
    | true =>
      simp only [hwf, Bool.not_true, Bool.false_eq_true, if_false] at hx
      split at hx
      · exact absurd hx nofun
      · cases hx; exact hwf

/-- The check of a format that was set passes an instruction on or refuses it. -/
theorem checkFormat_ok {fid : Option Nat} {x : Selected} {i : Instr}
    (hx : checkFormat fid x = .ok i) : x = .ok i := by
  unfold checkFormat at hx
  split at hx
  · split at hx
    · exact hx
    · exact absurd hx nofun
  · exact hx

theorem wf_of_selectRecord {a : Addr} {c : Option Cond} {fid : Option Nat} {h : Operation}
    {sibs : List Operation} {i : Instr} (hi : selectRecord a c fid h sibs = .ok i) :
    i.wf = true := by
  unfold selectRecord at hi
  split at hi
  · exact absurd hi nofun
  · have hrow := checkFormat_ok hi
    unfold selectRow at hrow
    split at hrow
    · exact absurd hrow nofun
    · exact wf_of_checkOperands hrow

/-! ## Records with no format -/

theorem formatsOf_unknown {h : Operation} (hm : h.mnemonic = .unknown) (sibs : List Operation) :
    formatsOf h sibs = [] := by
  unfold formatsOf
  split
  · cases sibs with
    | nil => simp [hm, singleRows]
    | cons l ls => simp [hm, bundleRows, slotOf]
  · rfl

theorem lookupError_noFormat {h : Operation} {sibs : List Operation} (hf : formatsOf h sibs = [])
    (fid : Option Nat) : ∃ token, lookupError fid h sibs = some ⟨.enc, token⟩ := by
  unfold lookupError
  rw [hf]
  dsimp only
  cases unclassifiedTokens (h :: sibs) with
  | nil => exact ⟨_, rfl⟩
  | cons t ts => exact ⟨_, rfl⟩

/-! ## One word per record -/

theorem encodeRecord_ok {out : EncoderOutput} {r : InstructionRecord} {h : Operation}
    {sibs : List Operation} {i : Instr} (hb : r.body = .operation h sibs)
    (hs : selectRecord r.addr r.cond r.formatId h sibs = .ok i) :
    encodeRecord out r = emitWord out r i := by simp [encodeRecord, hb, hs]

theorem encodeRecord_error {out : EncoderOutput} {r : InstructionRecord} {h : Operation}
    {sibs : List Operation} {e : Rejection} (hb : r.body = .operation h sibs)
    (hs : selectRecord r.addr r.cond r.formatId h sibs = .error e) :
    encodeRecord out r = emitError out r e := by simp [encodeRecord, hb, hs]

/-- A record that is not a pseudo-op emits a word or an error. -/
theorem encodeRecord_cases (out : EncoderOutput) {r : InstructionRecord} (hr : r.body ≠ .pseudoOp) :
    (∃ i, i.wf = true ∧ encodeRecord out r = emitWord out r i) ∨
      ∃ e, encodeRecord out r = emitError out r e := by
  cases hb : r.body with
  | pseudoOp => exact absurd hb hr
  | unresolved => exact .inr ⟨⟨.struct, .record⟩, by simp [encodeRecord, hb]⟩
  | operation h sibs =>
    cases hs : selectRecord r.addr r.cond r.formatId h sibs with
    | ok i => exact .inl ⟨i, wf_of_selectRecord hs, encodeRecord_ok hb hs⟩
    | error e => exact .inr ⟨e, encodeRecord_error hb hs⟩

/-- Settles O5. -/
theorem encoderEmitsOneWord : Obligations.EncoderEmitsOneWord := by
  refine ⟨fun out r hr => ?_, fun out r h sibs hb hno => ?_⟩
  · rcases encodeRecord_cases out hr with ⟨i, hwf, he⟩ | ⟨e, he⟩
    · left; rw [he]; exact ⟨i, hwf, decodeOfEncode i hwf, rfl, rfl, rfl⟩
    · right; rw [he]; exact ⟨e.cls, e.token, _, rfl, rfl, rfl, rfl, rfl⟩
  · have hf : formatsOf h sibs = [] := hno.elim id fun hm => formatsOf_unknown hm sibs
    obtain ⟨token, ht⟩ := lookupError_noFormat hf r.formatId
    refine ⟨token, ?_⟩
    rw [encodeRecord_error (e := ⟨.enc, token⟩) hb (by simp [selectRecord, ht])]
    rfl

end Sys2Proof.Machine
end
